-- ==== Sys2Proof/Word.lean ====
section
/-! DEFINITION. The plain value types: bytes, words and the colour records of `10_state.md` rule R21. -/

namespace Sys2Proof

/-- The smallest addressable unit of RDRAM and TMEM (R80, R90). -/
abbrev Byte := BitVec 8

/-- A 32-bit word: the span accumulators and coefficients of R9 and R122. -/
abbrev Word := BitVec 32

/-- Three colour channels of one width (R21, without alpha). -/
structure Rgb (w : Nat) where
  r : BitVec w
  g : BitVec w
  b : BitVec w
deriving DecidableEq, Repr

/-- "a 4-channel (R,G,B,A) integer pixel value" (R21), every channel of one width. -/
structure Color (w : Nat) where
  r : BitVec w
  g : BitVec w
  b : BitVec w
  a : BitVec w
deriving DecidableEq, Repr

/-- A colour with 8-bit r, g, b and a 9-bit alpha (0..0x100): `gs.pixel` and `gs.blended_pixel` of R22. -/
structure PixelColor where
  r : BitVec 8
  g : BitVec 8
  b : BitVec 8
  a : BitVec 9
deriving DecidableEq, Repr

/-- `gs.combined` of R22: 17-bit colour channels and a 9-bit alpha. -/
structure CombinedColor where
  r : BitVec 17
  g : BitVec 17
  b : BitVec 17
  a : BitVec 9
deriving DecidableEq, Repr

/-- The four taps of a quad fetch (R304). -/
structure Quad where
  q0 : Color 9
  q1 : Color 9
  q2 : Color 9
  q3 : Color 9
deriving DecidableEq, Repr

/-- The eight interpolated attributes of a span (R50), as signed 32-bit accumulators. -/
structure Attrs where
  r : Word
  g : Word
  b : Word
  a : Word
  s : Word
  t : Word
  w : Word
  z : Word
deriving DecidableEq, Repr

end Sys2Proof
end

