-- ==== Sys2Proof/Syntax.lean ====
section
/-! DEFINITION. The operations of the block: one constructor per row of `spec/opcode_table.json`.
Commands carry the fields of their record (`30_encoding.md` rules R122, R130), pseudo-operations their inputs (R150),
stage operations the operands of their rule, as the sequencer supplies them (R120 (b)). -/

namespace Sys2Proof

/-- One interpolated attribute of a `DRAW_TRI` record: base value, "dx", "de" and "dy" (R122). -/
structure Coeff where
  base : Word
  dx : Word
  de : Word
  dy : Word
deriving DecidableEq, Repr

/-- The `DRAW_TRI` record (R122). -/
structure TriCmd where
  shade : Bool
  texture : Bool
  zbuf : Bool
  flip : Bool
  level : BitVec 3
  tile : BitVec 3
  yl : BitVec 14
  ym : BitVec 14
  yh : BitVec 14
  xl : Word
  xh : Word
  xm : Word
  dxldy : Word
  dxhdy : Word
  dxmdy : Word
  r : Coeff
  g : Coeff
  b : Coeff
  a : Coeff
  s : Coeff
  t : Coeff
  w : Coeff
  z : Coeff
deriving DecidableEq, Repr

/-- The `SET_TILE` record (R130). -/
structure TileCmd where
  tile : BitVec 3
  format : BitVec 3
  size : BitVec 2
  line : BitVec 9
  tmem : BitVec 9
  palette : BitVec 4
  ct : Bool
  mt : Bool
  maskT : BitVec 4
  shiftT : BitVec 4
  cs : Bool
  ms : Bool
  maskS : BitVec 4
  shiftS : BitVec 4
deriving DecidableEq, Repr

/-- What the texture step of a pixel reads from the sequencer: the accumulators s, t, w, their increments (R212), the
command's tile, the scanline `i`, the pixel count `j` and the span's `length` (R218, R220, R234, R284). -/
structure TexOperands where
  s : Word
  t : Word
  w : Word
  dsinc : Word
  dtinc : Word
  dwinc : Word
  tilenum : BitVec 3
  i : BitVec 10
  j : BitVec 12
  length : BitVec 12
deriving DecidableEq, Repr

/-- The operands of `RGBAZ_CORRECT` (R226): the offsets, the colour values after `>> 14`, the 22-bit depth, the coverage
count, and the two depth slopes that R212 chooses. -/
structure CorrectOperands where
  offx : BitVec 2
  offy : BitVec 2
  sr : BitVec 18
  sg : BitVec 18
  sb : BitVec 18
  sa : BitVec 18
  sz : BitVec 22
  cvg : BitVec 4
  cdz : BitVec 22
  dzdy : BitVec 22
deriving DecidableEq, Repr

/-- The operands of `ZCOMPARE` (R430). -/
structure ZOperands where
  zbcur : Word
  sz : BitVec 18
  dzpix : BitVec 16
  dzpixenc : BitVec 4
  cvg : BitVec 4
  memcvg : BitVec 3
deriving DecidableEq, Repr

/-- The terms of R430 that the four mode arms combine. -/
structure ZTerms where
  infront : Bool
  farther : Bool
  nearer : Bool
  max : Bool
  overflow : Bool
deriving DecidableEq, Repr

/-- The operands of a framebuffer write (`48_framebuffer_io.md`, section 4). -/
structure FbOperands where
  curpixel : Word
  r : BitVec 8
  g : BitVec 8
  b : BitVec 8
  blendEn : Bool
  cvg : BitVec 4
  memcvg : BitVec 3
deriving DecidableEq, Repr

/-- The operands of the blender passes (R404, R406). -/
structure BlendOperands where
  cdith : BitVec 15
  blendEn : Bool
  prewrap : Bool
  cvg : BitVec 4
  cvbit : Bool
deriving DecidableEq, Repr

/-- The operations (R120), in the order of `spec/opcode_table.json`. -/
inductive Instr where
  -- commands, R121
  | drawTri (cmd : TriCmd)
  | setKeyGb (widthG widthB : BitVec 12) (centerG scaleG centerB scaleB : BitVec 8)
  | setKeyR (widthR : BitVec 12) (centerR scaleR : BitVec 8)
  | setConvert (k0 k1 k2 k3 k4 k5 : BitVec 9)
  | setScissor (xh yh xl yl : BitVec 12) (field odd : Bool)
  | setPrimDepth (z dz : BitVec 16)
  | setOtherModes (om : BitVec 64)
  | setTileSize (tile : BitVec 3) (sl tl sh th : BitVec 12)
  | loadTile (tile : BitVec 3) (sl tl sh th : BitVec 12)
  | setTile (cmd : TileCmd)
  | setFillColor (color : BitVec 32)
  | setFogColor (r g b a : BitVec 8)
  | setBlendColor (r g b a : BitVec 8)
  | setPrimColor (minLevel : BitVec 5) (primLodFrac r g b a : BitVec 8)
  | setEnvColor (r g b a : BitVec 8)
  | setCombineMode (cc : BitVec 64)
  | setZImage (address : BitVec 26)
  | setColorImage (format : BitVec 3) (size : BitVec 2) (width : BitVec 10) (address : BitVec 26)
  -- pseudo-operations, R150
  | fillRect (xl yl xh yh : BitVec 12)
  | texRect (xl yl : BitVec 12) (tile : BitVec 3) (xh yh : BitVec 12) (s t dsdx dtdy : BitVec 16)
  -- stage operations, R120 (b)
  | deduceDerivatives
  | edgewalk (cmd : TriCmd)
  | renderSpans (start stop : BitVec 12) (tilenum : BitVec 3) (flip : Bool)
  | render1cycle (start stop : BitVec 12) (tilenum : BitVec 3) (flip : Bool)
  | render2cycle (start stop : BitVec 12) (tilenum : BitVec 3) (flip : Bool)
  | renderCopy (start stop : BitVec 12) (tilenum : BitVec 3) (flip : Bool)
  | renderFill (start stop : BitVec 12) (flip : Bool)
  | texture1cycle (o : TexOperands)
  | nextCoords1cycle (o : TexOperands)
  | texture2cycle (o : TexOperands)
  | rgbazCorrect (o : CorrectOperands)
  | cvgBuild (i : BitVec 10) (flip : Bool)
  | cvgLookup (m : Byte)
  | tcDivNonpersp (ss st sw : BitVec 16)
  | tcDivPersp (ss st sw : BitVec 16)
  | tcClamp17 (c : BitVec 19)
  | tcShift (c : BitVec 16) (shift : BitVec 4) (sh : BitVec 12)
  | tcClamp (c : BitVec 17) (frac : BitVec 5) (max clampen : Bool) (clampdiff : BitVec 10)
  | tcMask (c : BitVec 12) (mask : BitVec 4) (mirror : Bool) (maskclamped : BitVec 4)
  | tcMaskCoupled (c : BitVec 12) (mask : BitVec 4) (mirror : Bool) (maskclamped : BitVec 4)
  | texCycle (prev : Color 9) (sss sst : BitVec 16) (tilenum : BitVec 3) (cycle : Bool)
  | armPoint (q0 : Color 9)
  | armPointConvert (prev : Color 9)
  | armLerp (q : Quad) (sfrac tfrac : BitVec 5) (s3odd yuv : Bool)
  | armLerpConvert (prev : Color 9) (q : Quad) (upper : Bool)
  | armYuv1 (prev q0 : Color 9) (convert : Bool)
  | armYuv4 (prev : Color 9) (q : Quad) (convert upper upperRg : Bool)
  | lod1cycle (sss sst : BitVec 19) (o : TexOperands)
  | lod2cycle (sss sst : BitVec 19) (o : TexOperands)
  | lodCopy (sss sst : BitVec 19) (tilenum : BitVec 3)
  | tmemFetch1 (tilenum : BitVec 3) (s t : BitVec 13)
  | tmemFetchQuad (tilenum : BitVec 3) (s : BitVec 13) (sdiff : BitVec 11) (t : BitVec 13) (tdiff : BitVec 11) (upper : Bool)
  | tmemFetchRgba4 (tilenum : BitVec 3) (s t : BitVec 13)
  | tmemFetchRgba8 (tilenum : BitVec 3) (s t : BitVec 13)
  | tmemFetchRgba16 (tilenum : BitVec 3) (s t : BitVec 13)
  | tmemFetchRgba32 (tilenum : BitVec 3) (s t : BitVec 13)
  | tmemFetchYuv4 (tilenum : BitVec 3) (s t : BitVec 13)
  | tmemFetchYuv8 (tilenum : BitVec 3) (s t : BitVec 13)
  | tmemFetchYuv16 (tilenum : BitVec 3) (s t : BitVec 13)
  | tmemFetchYuv32 (tilenum : BitVec 3) (s t : BitVec 13)
  | tmemFetchCi4 (tilenum : BitVec 3) (s t : BitVec 13)
  | tmemFetchCi8 (tilenum : BitVec 3) (s t : BitVec 13)
  | tmemFetchCi16 (tilenum : BitVec 3) (s t : BitVec 13)
  | tmemFetchCi32 (tilenum : BitVec 3) (s t : BitVec 13)
  | tmemFetchIa4 (tilenum : BitVec 3) (s t : BitVec 13)
  | tmemFetchIa8 (tilenum : BitVec 3) (s t : BitVec 13)
  | tmemFetchIa16 (tilenum : BitVec 3) (s t : BitVec 13)
  | tmemFetchIa32 (tilenum : BitVec 3) (s t : BitVec 13)
  | tmemFetchI4 (tilenum : BitVec 3) (s t : BitVec 13)
  | tmemFetchI8 (tilenum : BitVec 3) (s t : BitVec 13)
  | tmemFetchI16 (tilenum : BitVec 3) (s t : BitVec 13)
  | tmemFetchI32 (tilenum : BitVec 3) (s t : BitVec 13)
  | tmemFetchTlut (tilenum : BitVec 3) (s : BitVec 13) (sdiff : BitVec 11) (t : BitVec 13) (tdiff : BitVec 11) (upper : Bool)
  | copyTexel16 (tilenum : BitVec 3) (sss sst : BitVec 16) (p : BitVec 2)
  | combineEqRgb (a b c d : BitVec 9) (cZero : Bool)
  | combineEqAlpha (a b c d : BitVec 9) (cZero : Bool)
  | combine1cycle (adith : BitVec 3) (cvg : BitVec 4)
  | combine2cycle (adith : BitVec 3) (cvg : BitVec 4)
  | finishCycle (adith : BitVec 3) (cvg : BitVec 4) (bypass : Rgb 9)
  | chromaKey (col : Rgb 17)
  | blendEq (c : Bool)
  | blendEqC02
  | alphaCompare (alpha : BitVec 9)
  | blend1cycle (o : BlendOperands)
  | blend2cycle (o : BlendOperands) (acalpha : BitVec 9)
  | zLoad (zbcur : Word)
  | zcompare (o : ZOperands)
  | zcompareDisabled (o : ZOperands)
  | shifters (dzpixenc raw : BitVec 4)
  | zcompareOpaque (x : ZTerms)
  | zcompareInterpenetrating (x : ZTerms) (oz sz : BitVec 18) (dznotshift : BitVec 16) (cvg : BitVec 4)
  | zcompareTransparent (x : ZTerms)
  | zcompareDecal (x : ZTerms)
  | zStore (zbcur : Word) (sz : BitVec 18) (dzpixenc : BitVec 4)
  | irand
  | ditherNoise (x y : BitVec 12) (cdith : BitVec 15) (adith : BitVec 3)
  | rgbDither (r g b : BitVec 8) (dith : BitVec 15)
  | fbRead4 (curpixel : Word) (pre : Bool)
  | fbRead8 (curpixel : Word) (pre : Bool)
  | fbRead16 (curpixel : Word) (pre : Bool)
  | fbRead32 (curpixel : Word) (pre : Bool)
  | finalCvg (blendEn : Bool) (cvg : BitVec 4) (memcvg : BitVec 3)
  | fbWrite4 (o : FbOperands)
  | fbWrite8 (o : FbOperands)
  | fbWrite16 (o : FbOperands)
  | fbWrite32 (o : FbOperands)
  | fbFill8 (curpixel : Word)
  | fbFill16 (curpixel : Word)
  | fbFill32 (curpixel : Word)
  | recomputeTile (tile : BitVec 3)
deriving DecidableEq, Repr

end Sys2Proof
end

