-- ==== Sys2Proof/Decode.lean ====
section
/-! DEFINITION. The decoder and the encoder of command records (`30_encoding.md` rules R121 to R130, R150).
The spec gives a record's tag, its fields and their widths, and no byte layout ("a model that has no use for numeric tags
may use the mnemonics as constructors", R121). The layout here is the model's own, DESIGN CHOICE, log entry 1: byte 0 holds the tag in bits
5:0 and zeros in bits 7:6, then each field follows in the order of `spec/opcode_table.json` in as many whole bytes as its width
needs, most significant byte first, a flag in one byte. In that order the coefficients of a `DRAW_TRI` record stand attribute by
attribute (base, "dx", "de", "dy" of `r`, then of `g`, ...), where the table of R122 lists a group's bases first.
A missing byte reads as 0 ("omitted fields are 0", R155) and bytes after the last field are ignored. A pseudo-operation
has a byte 0 of its own, DESIGN CHOICE, log entry 2. Stage operations have no record: only the sequencer issues
them (R120 (b)), by the selections of R146 in the second half of this file. -/

namespace Sys2Proof

/-- Why a record is not a command of this block (R161). -/
inductive Reject where
  /-- The record has no byte, so it has no tag. -/
  | noTag
  /-- "Every other tag value is not a command of this block" (R121). -/
  | unknownTag (b : Byte)
deriving DecidableEq, Repr

/-! ### Fields in bytes -/

/-- How many bytes a field of `w` bits takes. -/
def fieldBytes (w : Nat) : Nat := (w + 7) / 8

/-- The number in the next `n` bytes, most significant first, after the digits `acc`, and the bytes that follow. -/
def takeNat : Nat → List Byte → Nat → Nat × List Byte
  | 0, bs, acc => (acc, bs)
  | n + 1, [], acc => takeNat n [] (acc * 256)
  | n + 1, b :: bs, acc => takeNat n bs (acc * 256 + b.toNat)

/-- `v` in `n` bytes, most significant first. -/
def putNat : Nat → Nat → List Byte
  | 0, _ => []
  | n + 1, v => BitVec.ofNat 8 (v / 256 ^ n) :: putNat n v

/-- The next field, of `w` bits. -/
def takeField (w : Nat) (bs : List Byte) : BitVec w × List Byte :=
  (BitVec.ofNat w (takeNat (fieldBytes w) bs 0).1, (takeNat (fieldBytes w) bs 0).2)

/-- The bytes of a field. -/
def putField {w : Nat} (v : BitVec w) : List Byte := putNat (fieldBytes w) v.toNat

/-- The next flag: bit 0 of its byte. -/
def takeFlag (bs : List Byte) : Bool × List Byte :=
  ((takeField 1 bs).1 == 1, (takeField 1 bs).2)

/-- The byte of a flag. -/
def putFlag (b : Bool) : List Byte := putField (BitVec.ofBool b)

/-! ### The `DRAW_TRI` record -/

/-- The four coefficient words of one attribute: base, "dx", "de", "dy" (R122). -/
def takeCoeff (bs : List Byte) : Coeff × List Byte :=
  let (base, bs) := takeField 32 bs
  let (dx, bs) := takeField 32 bs
  let (de, bs) := takeField 32 bs
  let (dy, bs) := takeField 32 bs
  (⟨base, dx, de, dy⟩, bs)

/-- The bytes of one attribute's coefficients. -/
def putCoeff (c : Coeff) : List Byte :=
  putField c.base ++ (putField c.dx ++ (putField c.de ++ putField c.dy))

/-- An attribute of a group that is present iff `p`; an absent group holds zeros and takes no bytes (R123). -/
def takeCoeffIf (p : Bool) (bs : List Byte) : Coeff × List Byte :=
  match p with
  | true => takeCoeff bs
  | false => (⟨0, 0, 0, 0⟩, bs)

/-- The bytes of an attribute of a group that is present iff `p`. -/
def putCoeffIf (p : Bool) (c : Coeff) : List Byte :=
  match p with
  | true => putCoeff c
  | false => []

/-- R122, R123: the `DRAW_TRI` record with tag `b`: `op[2]` = shade, `op[1]` = texture, `op[0]` = zbuf. R122 gives its fields and
no order in bytes: the coefficient words follow attribute by attribute, DESIGN CHOICE, log entry 1, unsafe. -/
def decodeTri (b : Byte) (bs : List Byte) : TriCmd :=
  let shade := b.getLsbD 2
  let texture := b.getLsbD 1
  let zbuf := b.getLsbD 0
  let (flip, bs) := takeFlag bs
  let (level, bs) := takeField 3 bs
  let (tile, bs) := takeField 3 bs
  let (yl, bs) := takeField 14 bs
  let (ym, bs) := takeField 14 bs
  let (yh, bs) := takeField 14 bs
  let (xl, bs) := takeField 32 bs
  let (xh, bs) := takeField 32 bs
  let (xm, bs) := takeField 32 bs
  let (dxldy, bs) := takeField 32 bs
  let (dxhdy, bs) := takeField 32 bs
  let (dxmdy, bs) := takeField 32 bs
  let (r, bs) := takeCoeffIf shade bs
  let (g, bs) := takeCoeffIf shade bs
  let (b, bs) := takeCoeffIf shade bs
  let (a, bs) := takeCoeffIf shade bs
  let (s, bs) := takeCoeffIf texture bs
  let (t, bs) := takeCoeffIf texture bs
  let (w, bs) := takeCoeffIf texture bs
  let (z, _) := takeCoeffIf zbuf bs
  { shade, texture, zbuf, flip, level, tile, yl, ym, yh, xl, xh, xm, dxldy, dxhdy, dxmdy, r, g, b, a, s, t, w, z }

/-- The tag of a `DRAW_TRI` record: 0x08 to 0x0F by its three flags (R121). -/
def triTag (shade texture zbuf : Bool) : Byte :=
  1#5 ++ (BitVec.ofBool shade ++ (BitVec.ofBool texture ++ BitVec.ofBool zbuf))

/-- The record of a `DRAW_TRI` command. -/
def encodeTri (c : TriCmd) : List Byte :=
  triTag c.shade c.texture c.zbuf ::
    (putFlag c.flip ++ (putField c.level ++ (putField c.tile ++ (putField c.yl ++ (putField c.ym ++ (putField c.yh ++
    (putField c.xl ++ (putField c.xh ++ (putField c.xm ++ (putField c.dxldy ++ (putField c.dxhdy ++ (putField c.dxmdy ++
    (putCoeffIf c.shade c.r ++ (putCoeffIf c.shade c.g ++ (putCoeffIf c.shade c.b ++ (putCoeffIf c.shade c.a ++
    (putCoeffIf c.texture c.s ++ (putCoeffIf c.texture c.t ++ (putCoeffIf c.texture c.w ++
    putCoeffIf c.zbuf c.z)))))))))))))))))))

/-! ### The records of R130, one decoder each -/

/-- `SET_KEY_GB` (R130). -/
def decodeSetKeyGb (bs : List Byte) : Instr :=
  let (widthG, bs) := takeField 12 bs
  let (widthB, bs) := takeField 12 bs
  let (centerG, bs) := takeField 8 bs
  let (scaleG, bs) := takeField 8 bs
  let (centerB, bs) := takeField 8 bs
  let (scaleB, _) := takeField 8 bs
  .setKeyGb widthG widthB centerG scaleG centerB scaleB

/-- `SET_KEY_R` (R130). -/
def decodeSetKeyR (bs : List Byte) : Instr :=
  let (widthR, bs) := takeField 12 bs
  let (centerR, bs) := takeField 8 bs
  let (scaleR, _) := takeField 8 bs
  .setKeyR widthR centerR scaleR

/-- `SET_CONVERT` (R130). -/
def decodeSetConvert (bs : List Byte) : Instr :=
  let (k0, bs) := takeField 9 bs
  let (k1, bs) := takeField 9 bs
  let (k2, bs) := takeField 9 bs
  let (k3, bs) := takeField 9 bs
  let (k4, bs) := takeField 9 bs
  let (k5, _) := takeField 9 bs
  .setConvert k0 k1 k2 k3 k4 k5

/-- `SET_SCISSOR` (R130). -/
def decodeSetScissor (bs : List Byte) : Instr :=
  let (xh, bs) := takeField 12 bs
  let (yh, bs) := takeField 12 bs
  let (xl, bs) := takeField 12 bs
  let (yl, bs) := takeField 12 bs
  let (field, bs) := takeFlag bs
  let (odd, _) := takeFlag bs
  .setScissor xh yh xl yl field odd

/-- `SET_PRIM_DEPTH` (R130). -/
def decodeSetPrimDepth (bs : List Byte) : Instr :=
  let (z, bs) := takeField 16 bs
  let (dz, _) := takeField 16 bs
  .setPrimDepth z dz

/-- `SET_OTHER_MODES` (R130). -/
def decodeSetOtherModes (bs : List Byte) : Instr := .setOtherModes (takeField 64 bs).1

/-- `SET_TILE_SIZE` (R130). -/
def decodeSetTileSize (bs : List Byte) : Instr :=
  let (tile, bs) := takeField 3 bs
  let (sl, bs) := takeField 12 bs
  let (tl, bs) := takeField 12 bs
  let (sh, bs) := takeField 12 bs
  let (th, _) := takeField 12 bs
  .setTileSize tile sl tl sh th

/-- `LOAD_TILE` (R130). -/
def decodeLoadTile (bs : List Byte) : Instr :=
  let (tile, bs) := takeField 3 bs
  let (sl, bs) := takeField 12 bs
  let (tl, bs) := takeField 12 bs
  let (sh, bs) := takeField 12 bs
  let (th, _) := takeField 12 bs
  .loadTile tile sl tl sh th

/-- `SET_TILE` (R130). -/
def decodeSetTile (bs : List Byte) : Instr :=
  let (tile, bs) := takeField 3 bs
  let (format, bs) := takeField 3 bs
  let (size, bs) := takeField 2 bs
  let (line, bs) := takeField 9 bs
  let (tmem, bs) := takeField 9 bs
  let (palette, bs) := takeField 4 bs
  let (ct, bs) := takeFlag bs
  let (mt, bs) := takeFlag bs
  let (maskT, bs) := takeField 4 bs
  let (shiftT, bs) := takeField 4 bs
  let (cs, bs) := takeFlag bs
  let (ms, bs) := takeFlag bs
  let (maskS, bs) := takeField 4 bs
  let (shiftS, _) := takeField 4 bs
  .setTile { tile, format, size, line, tmem, palette, ct, mt, maskT, shiftT, cs, ms, maskS, shiftS }

/-- `SET_FILL_COLOR` (R130). -/
def decodeSetFillColor (bs : List Byte) : Instr := .setFillColor (takeField 32 bs).1

/-- The four channels of `SET_FOG_COLOR`, `SET_BLEND_COLOR` and `SET_ENV_COLOR` (R130). -/
def takeColor (bs : List Byte) : Color 8 × List Byte :=
  let (r, bs) := takeField 8 bs
  let (g, bs) := takeField 8 bs
  let (b, bs) := takeField 8 bs
  let (a, bs) := takeField 8 bs
  (⟨r, g, b, a⟩, bs)

/-- The bytes of four channels. -/
def putColor (r g b a : BitVec 8) : List Byte := putField r ++ (putField g ++ (putField b ++ putField a))

/-- `SET_FOG_COLOR` (R130). -/
def decodeSetFogColor (bs : List Byte) : Instr :=
  let (c, _) := takeColor bs
  .setFogColor c.r c.g c.b c.a

/-- `SET_BLEND_COLOR` (R130). -/
def decodeSetBlendColor (bs : List Byte) : Instr :=
  let (c, _) := takeColor bs
  .setBlendColor c.r c.g c.b c.a

/-- `SET_PRIM_COLOR` (R130). -/
def decodeSetPrimColor (bs : List Byte) : Instr :=
  let (minLevel, bs) := takeField 5 bs
  let (primLodFrac, bs) := takeField 8 bs
  let (c, _) := takeColor bs
  .setPrimColor minLevel primLodFrac c.r c.g c.b c.a

/-- `SET_ENV_COLOR` (R130). -/
def decodeSetEnvColor (bs : List Byte) : Instr :=
  let (c, _) := takeColor bs
  .setEnvColor c.r c.g c.b c.a

/-- `SET_COMBINE_MODE` (R130). -/
def decodeSetCombineMode (bs : List Byte) : Instr := .setCombineMode (takeField 64 bs).1

/-- `SET_Z_IMAGE` (R130). -/
def decodeSetZImage (bs : List Byte) : Instr := .setZImage (takeField 26 bs).1

/-- `SET_COLOR_IMAGE` (R130). -/
def decodeSetColorImage (bs : List Byte) : Instr :=
  let (format, bs) := takeField 3 bs
  let (size, bs) := takeField 2 bs
  let (width, bs) := takeField 10 bs
  let (address, _) := takeField 26 bs
  .setColorImage format size width address

/-- `FILL_RECT XL, YL, XH, YH` (R150). -/
def decodeFillRect (bs : List Byte) : Instr :=
  let (xl, bs) := takeField 12 bs
  let (yl, bs) := takeField 12 bs
  let (xh, bs) := takeField 12 bs
  let (yh, _) := takeField 12 bs
  .fillRect xl yl xh yh

/-- `TEX_RECT XL, YL, TILE, XH, YH, S, T, DSDX, DTDY` (R150). -/
def decodeTexRect (bs : List Byte) : Instr :=
  let (xl, bs) := takeField 12 bs
  let (yl, bs) := takeField 12 bs
  let (tile, bs) := takeField 3 bs
  let (xh, bs) := takeField 12 bs
  let (yh, bs) := takeField 12 bs
  let (s, bs) := takeField 16 bs
  let (t, bs) := takeField 16 bs
  let (dsdx, bs) := takeField 16 bs
  let (dtdy, _) := takeField 16 bs
  .texRect xl yl tile xh yh s t dsdx dtdy

/-- The decoder: `op` alone tells commands apart (R121), any other byte 0 is rejected by name. -/
def decode : List Byte → Except Reject Instr
  | [] => .error .noTag
  | b :: bs =>
    if b.toNat / 8 = 1 then .ok (.drawTri (decodeTri b bs))
    else match b.toNat with
      | 0x2A => .ok (decodeSetKeyGb bs)
      | 0x2B => .ok (decodeSetKeyR bs)
      | 0x2C => .ok (decodeSetConvert bs)
      | 0x2D => .ok (decodeSetScissor bs)
      | 0x2E => .ok (decodeSetPrimDepth bs)
      | 0x2F => .ok (decodeSetOtherModes bs)
      | 0x32 => .ok (decodeSetTileSize bs)
      | 0x34 => .ok (decodeLoadTile bs)
      | 0x35 => .ok (decodeSetTile bs)
      | 0x37 => .ok (decodeSetFillColor bs)
      | 0x38 => .ok (decodeSetFogColor bs)
      | 0x39 => .ok (decodeSetBlendColor bs)
      | 0x3A => .ok (decodeSetPrimColor bs)
      | 0x3B => .ok (decodeSetEnvColor bs)
      | 0x3C => .ok (decodeSetCombineMode bs)
      | 0x3E => .ok (decodeSetZImage bs)
      | 0x3F => .ok (decodeSetColorImage bs)
      | 0x40 => .ok (decodeFillRect bs)
      | 0x41 => .ok (decodeTexRect bs)
      | _ => .error (.unknownTag b)

/-- The encoder: the record of a command or pseudo-operation; a stage operation has none (R120 (b)). -/
def encode : Instr → Option (List Byte)
  | .drawTri c => some (encodeTri c)
  | .setKeyGb wg wb cg sg cb sb => some (0x2A ::
      (putField wg ++ (putField wb ++ (putField cg ++ (putField sg ++ (putField cb ++ putField sb))))))
  | .setKeyR w c s => some (0x2B :: (putField w ++ (putField c ++ putField s)))
  | .setConvert k0 k1 k2 k3 k4 k5 => some (0x2C ::
      (putField k0 ++ (putField k1 ++ (putField k2 ++ (putField k3 ++ (putField k4 ++ putField k5))))))
  | .setScissor xh yh xl yl field odd => some (0x2D ::
      (putField xh ++ (putField yh ++ (putField xl ++ (putField yl ++ (putFlag field ++ putFlag odd))))))
  | .setPrimDepth z dz => some (0x2E :: (putField z ++ putField dz))
  | .setOtherModes om => some (0x2F :: putField om)
  | .setTileSize tile sl tl sh th => some (0x32 ::
      (putField tile ++ (putField sl ++ (putField tl ++ (putField sh ++ putField th)))))
  | .loadTile tile sl tl sh th => some (0x34 ::
      (putField tile ++ (putField sl ++ (putField tl ++ (putField sh ++ putField th)))))
  | .setTile c => some (0x35 ::
      (putField c.tile ++ (putField c.format ++ (putField c.size ++ (putField c.line ++ (putField c.tmem ++
      (putField c.palette ++ (putFlag c.ct ++ (putFlag c.mt ++ (putField c.maskT ++ (putField c.shiftT ++
      (putFlag c.cs ++ (putFlag c.ms ++ (putField c.maskS ++ putField c.shiftS))))))))))))))
  | .setFillColor color => some (0x37 :: putField color)
  | .setFogColor r g b a => some (0x38 :: putColor r g b a)
  | .setBlendColor r g b a => some (0x39 :: putColor r g b a)
  | .setPrimColor minLevel lf r g b a => some (0x3A :: (putField minLevel ++ (putField lf ++ putColor r g b a)))
  | .setEnvColor r g b a => some (0x3B :: putColor r g b a)
  | .setCombineMode cc => some (0x3C :: putField cc)
  | .setZImage address => some (0x3E :: putField address)
  | .setColorImage format size width address => some (0x3F ::
      (putField format ++ (putField size ++ (putField width ++ putField address))))
  | .fillRect xl yl xh yh => some (0x40 :: (putField xl ++ (putField yl ++ (putField xh ++ putField yh))))
  | .texRect xl yl tile xh yh s t dsdx dtdy => some (0x41 ::
      (putField xl ++ (putField yl ++ (putField tile ++ (putField xh ++ (putField yh ++ (putField s ++ (putField t ++
      (putField dsdx ++ putField dtdy)))))))))
  | _ => none

/-- The bytes of a table word, the first byte from bits 7:0. -/
def wordBytes : Nat → Nat → List Byte
  | 0, _ => []
  | n + 1, w => BitVec.ofNat 8 w :: wordBytes n (w / 256)

/-- The record whose first `nbits` bits, in whole bytes, are `w` (bit 0 the least significant bit of byte 0); every
later byte is 0, which is what a missing byte reads as. -/
def tableRecord (nbits w : Nat) : List Byte := wordBytes (fieldBytes nbits) w

/-- What the decoder reads from a word of `spec/opcode_table.json`. -/
def decodeTableWord (nbits w : Nat) : Option Instr :=
  match decode (tableRecord nbits w) with
  | .ok i => some i
  | .error _ => none

/-! ### The selections of R146: the "opcode map" of the stage operations -/

/-- `gs.om.cycle_type` selects the renderer. -/
def selectRenderer (cycleType : BitVec 2) (start stop : BitVec 12) (tilenum : BitVec 3) (flip : Bool) : Instr :=
  match cycleType.toNat with
  | 0 => .render1cycle start stop tilenum flip
  | 1 => .render2cycle start stop tilenum flip
  | 2 => .renderCopy start stop tilenum flip
  | _ => .renderFill start stop flip

/-- `gs.fb_size` selects the framebuffer read. -/
def selectFbRead (size : BitVec 2) (curpixel : Word) (pre : Bool) : Instr :=
  match size.toNat with
  | 0 => .fbRead4 curpixel pre
  | 1 => .fbRead8 curpixel pre
  | 2 => .fbRead16 curpixel pre
  | _ => .fbRead32 curpixel pre

/-- `gs.fb_size` selects the framebuffer write. -/
def selectFbWrite (size : BitVec 2) (o : FbOperands) : Instr :=
  match size.toNat with
  | 0 => .fbWrite4 o
  | 1 => .fbWrite8 o
  | 2 => .fbWrite16 o
  | _ => .fbWrite32 o

/-- `gs.fb_size` selects the fill write; size 0 has none, `RENDER_FILL` crashes first (R510). -/
def selectFbFill (size : BitVec 2) (curpixel : Word) : Option Instr :=
  match size.toNat with
  | 0 => none
  | 1 => some (.fbFill8 curpixel)
  | 2 => some (.fbFill16 curpixel)
  | _ => some (.fbFill32 curpixel)

/-- `gs.om.z_mode` selects the arm of `ZCOMPARE`. -/
def selectZMode (zMode : BitVec 2) (x : ZTerms) (oz sz : BitVec 18) (dznotshift : BitVec 16) (cvg : BitVec 4) : Instr :=
  match zMode.toNat with
  | 0 => .zcompareOpaque x
  | 1 => .zcompareInterpenetrating x oz sz dznotshift cvg
  | 2 => .zcompareTransparent x
  | _ => .zcompareDecal x

/-- `gs.persp` selects the coordinate divider. -/
def selectTcDiv (persp : Bool) (ss st sw : BitVec 16) : Instr :=
  match persp with
  | false => .tcDivNonpersp ss st sw
  | true => .tcDivPersp ss st sw

/-- `notlutswitch` selects the fetch arm (R306); 20 to 31 have none. -/
def selectTmemFetch (switch : BitVec 5) (tilenum : BitVec 3) (s t : BitVec 13) : Option Instr :=
  match switch.toNat with
  | 0 => some (.tmemFetchRgba4 tilenum s t)
  | 1 => some (.tmemFetchRgba8 tilenum s t)
  | 2 => some (.tmemFetchRgba16 tilenum s t)
  | 3 => some (.tmemFetchRgba32 tilenum s t)
  | 4 => some (.tmemFetchYuv4 tilenum s t)
  | 5 => some (.tmemFetchYuv8 tilenum s t)
  | 6 => some (.tmemFetchYuv16 tilenum s t)
  | 7 => some (.tmemFetchYuv32 tilenum s t)
  | 8 => some (.tmemFetchCi4 tilenum s t)
  | 9 => some (.tmemFetchCi8 tilenum s t)
  | 10 => some (.tmemFetchCi16 tilenum s t)
  | 11 => some (.tmemFetchCi32 tilenum s t)
  | 12 => some (.tmemFetchIa4 tilenum s t)
  | 13 => some (.tmemFetchIa8 tilenum s t)
  | 14 => some (.tmemFetchIa16 tilenum s t)
  | 15 => some (.tmemFetchIa32 tilenum s t)
  | 16 => some (.tmemFetchI4 tilenum s t)
  | 17 => some (.tmemFetchI8 tilenum s t)
  | 18 => some (.tmemFetchI16 tilenum s t)
  | 19 => some (.tmemFetchI32 tilenum s t)
  | _ => none

end Sys2Proof
end

