-- ==== Sys2Proof/Config.lean ====
section
/-! DEFINITION. The parameters of the block: the sizes `00_scope.md` rule R7 fixes, and the OPEN parameters, which are
constants without a body, so that no proof can see their value (`93_implementation_defined.md` U4).
The fourth OPEN parameter, `load_tile_tmem`, takes the machine's state and is declared in Machine/Tiles.lean. -/

namespace Sys2Proof

/-- `MAX_SCANLINES` (R7, R50). -/
def Config.maxScanlines : Nat := 1024

/-- `CVGBUF_LEN` (R7, R52). -/
def Config.cvgbufLen : Nat := 1024

/-- `TMEM_BYTES` (R7, R90). -/
def Config.tmemBytes : Nat := 4096

/-- The size of RDRAM: `RDRAM_BYTES` is `2 ^ (16 + Config.ramExtra)`, "a power of two, at least 2^16" (R7, D9).
OPEN parameter, log entry 7. Safe: nothing can be proved of its value. -/
opaque Config.ramExtra : Nat

/-- `SEED0`, the reset value of the noise generator (R7, R470). OPEN parameter, log entry 8. Safe. -/
opaque Config.seed0 : BitVec 32

/-- One entry of `tcdiv_rcp`: "a pair (shift: 0..14, rcp: 15-bit)" (R266). -/
structure RcpEntry where
  shift : Fin 15
  rcp : BitVec 15
deriving DecidableEq, Repr, Inhabited

/-- The table `tcdiv_rcp` of the perspective divider (R266, D28). OPEN parameter, log entry 9. Safe. -/
opaque Config.tcdivRcp : BitVec 15 → RcpEntry

end Sys2Proof
end

