-- ==== Sys2Proof/Machine/State.lean ====
section
/-! DEFINITION. The state of the machine: GraphicsState and the three memories of `10_state.md`, the reset state of R78,
and the reasons a step can stop. Every field is plain data. -/

namespace Sys2Proof.Machine

/-- The colour registers (R22). -/
structure ColorRegs where
  combined : CombinedColor
  texel0 : Color 9
  texel1 : Color 9
  nexttexel : Color 9
  shade : Color 8
  prim : Color 8
  env : Color 8
  fog : Color 8
  blend : Color 8
  keyCenter : Rgb 8
  keyScale : Rgb 8
  keyWidth : Rgb 12
  pixel : PixelColor
  invPixelA : BitVec 8
  blendedPixel : PixelColor
  memory : Color 8
  preMemory : Color 8
deriving DecidableEq, Repr

/-- The scalar source registers (R23). -/
structure ScalarRegs where
  noise : BitVec 9
  lodFrac : BitVec 9
  primLodFrac : BitVec 8
  minLevel : BitVec 5
  k0 : BitVec 9
  k1 : BitVec 9
  k2 : BitVec 9
  k3 : BitVec 9
  k4 : BitVec 9
  k5 : BitVec 9
deriving DecidableEq, Repr

/-- The phases of the sequencer (R30). -/
inductive Phase where
  | idle
  | edgewalk
  | render
deriving DecidableEq, Repr

/-- The sequencer position `gs.seq` (R30), this block's program counter. -/
structure Seq where
  phase : Phase
  k : BitVec 14
  i : BitVec 10
  j : BitVec 12
  x : BitVec 12
  cycle : BitVec 1
deriving DecidableEq, Repr

/-- The flags of R32 that a draw rewrites: per command `flip`, per scanline `allover`, `allunder`, `allinval`, per pixel
`blendEn`, `prewrap`, `cvbit` (`curpixel_cvbit`). -/
structure DrawFlags where
  flip : Bool
  allover : Bool
  allunder : Bool
  allinval : Bool
  blendEn : Bool
  prewrap : Bool
  cvbit : Bool
deriving DecidableEq, Repr

/-- The derived classification flags (R33). -/
structure Derived where
  cycle1Mode : BitVec 2
  cycle2Mode : BitVec 2
  partialreject1cycle : Bool
  partialreject2cycle : Bool
  realShiftersNeeded : Bool
  interpixelShiftersNeeded : Bool
  rgbAlphaDither : BitVec 4
  ditherLevel : BitVec 2
  dolod : Bool
  persp : Bool
deriving DecidableEq, Repr

/-- A tile register (R40): the fields the tile commands write, then the eight derived fields of R546. -/
structure Tile where
  format : BitVec 3
  size : BitVec 2
  line : BitVec 9
  tmem : BitVec 9
  palette : BitVec 4
  cs : Bool
  ct : Bool
  ms : Bool
  mt : Bool
  maskS : BitVec 4
  maskT : BitVec 4
  shiftS : BitVec 4
  shiftT : BitVec 4
  sl : BitVec 12
  tl : BitVec 12
  sh : BitVec 12
  th : BitVec 12
  clampdiffs : BitVec 10
  clampdifft : BitVec 10
  clampens : Bool
  clampent : Bool
  masksclamped : BitVec 4
  masktclamped : BitVec 4
  notlutswitch : BitVec 5
  tlutswitch : BitVec 4
deriving DecidableEq, Repr

/-- The scissor register `gs.clip` (R44). -/
structure Clip where
  xh : BitVec 12
  yh : BitVec 12
  xl : BitVec 12
  yl : BitVec 12
  scfield : Bool
  sckeepodd : Bool
deriving DecidableEq, Repr

/-- The image registers (R45). -/
structure ImageRegs where
  fbFormat : BitVec 3
  fbSize : BitVec 2
  fbWidth : BitVec 11
  fbAddress : BitVec 26
  zbAddress : BitVec 26
deriving DecidableEq, Repr

/-- The remaining control registers (R47). -/
structure MiscRegs where
  fillColor : BitVec 32
  primitiveZ : BitVec 32
  primitiveDeltaZ : BitVec 16
  maxLevel : BitVec 3
  stride : Nat
  workerOffset : Nat
deriving DecidableEq, Repr

/-- One entry of the span buffer (R50). -/
structure Span where
  lx : BitVec 12
  rx : BitVec 12
  unscrx : BitVec 12
  validline : Bool
  attrs : Attrs
  majorx : Vector (BitVec 13) 4
  minorx : Vector (BitVec 13) 4
  invalyscan : Vector Bool 4
deriving DecidableEq, Repr

/-- The per-primitive slope registers `gs.spans_*` (R51). -/
structure Slopes where
  dr : Word
  dg : Word
  db : Word
  da : Word
  ds : Word
  dt : Word
  dw : Word
  dz : Word
  drdy : BitVec 13
  dgdy : BitVec 13
  dbdy : BitVec 13
  dady : BitVec 13
  dzdy : BitVec 22
  cdr : BitVec 13
  cdg : BitVec 13
  cdb : BitVec 13
  cda : BitVec 13
  cdz : BitVec 22
  dsdy : Word
  dtdy : Word
  dwdy : Word
  dzpix : BitVec 16
deriving DecidableEq, Repr

/-- The hidden state of R70 that is in no other register: the generator and the blender shifters. -/
structure HiddenRegs where
  iseed : BitVec 32
  blshifta : BitVec 3
  blshiftb : BitVec 3
  pastblshifta : BitVec 3
  pastblshiftb : BitVec 3
  pastrawdzmem : BitVec 4
deriving DecidableEq, Repr

/-- GraphicsState `gs` (R20). -/
structure GraphicsState where
  col : ColorRegs
  sca : ScalarRegs
  seq : Seq
  pipelineCrashed : Bool
  stale : Bool
  flags : DrawFlags
  der : Derived
  tiles : Vector Tile 8
  om : BitVec 64
  cc : BitVec 64
  clip : Clip
  img : ImageRegs
  misc : MiscRegs
  span : List (Nat × Span)
  slopes : Slopes
  cvgbuf : List Host.Cell
  hid : HiddenRegs
deriving DecidableEq, Repr

/-- What a stage operation returns to the sequencer (R120 (b)), one alternative per shape of result.
The model's own record, DESIGN CHOICE, log entry 11, safe. -/
inductive Ret where
  | none
  | bool (b : Bool)
  | lookup (offx offy : BitVec 2) (cvg : BitVec 4) (cvbit : Bool)
  | limits (start stop : BitVec 12)
  | coords19 (s t : BitVec 19)
  | coord16 (c : BitVec 16)
  | shifted (c : BitVec 17) (max : Bool)
  | clamped (c : BitVec 12) (frac : BitVec 5)
  | masked (c : BitVec 12)
  | coupled (c : BitVec 12) (diff : BitVec 11)
  | coords32 (s t w : Word)
  | texel (c : Color 9)
  | quad (q : Quad)
  | lod1 (sss sst : BitVec 16) (tile : BitVec 3) (lodFrac : BitVec 9)
  | lod2 (sss sst : BitVec 16) (tile1 tile2 : BitVec 3) (lodFrac : BitVec 9)
  | lodCopy (sss sst : BitVec 16) (tile : BitVec 3)
  | texel16 (c : BitVec 16)
  | depth (sz : BitVec 18)
  | eqRgb (v : BitVec 17)
  | eqAlpha (v : BitVec 9)
  | cvg (c : BitVec 4)
  | combine2 (acalpha : BitVec 9) (cvg : BitVec 4)
  | key (a : BitVec 8)
  | rgb (c : Rgb 8)
  | blended (written : Bool) (c : Rgb 8)
  | zword (zval : BitVec 16) (hval : BitVec 2)
  | zpass (pass : Bool) (cvg : BitVec 4)
  | random (v : BitVec 15)
  | dither (cdith : BitVec 15) (adith : BitVec 3)
  | memcvg (c : BitVec 3)
deriving DecidableEq, Repr

/-- The machine: `gs`, the three memories of R60 as canonical lists, the size of RDRAM (`2 ^ (16 + ramExtra)` bytes, R80),
the records waiting at the command port (R6 (a)) and the result latch of a stage operation run on its own. -/
structure State where
  gs : GraphicsState
  ram : List Host.Cell
  hidden : List (Nat × BitVec 2)
  tmem : List Host.Cell
  ramExtra : Nat
  port : List (List Byte)
  ret : Ret
deriving DecidableEq, Repr

/-- Reasons to stop with a fault. There is none: "every arithmetic operation is total (wrap, clamp or table lookup), and
every memory access is masked" (R570), and the pipeline crash (R572) is a next state with its flag set. -/
inductive Fault where
deriving DecidableEq, Repr

/-- Reasons to refuse. Each but the first is an assertion of the spec (R576): "a model refuses". All are safe: the model
stops where the spec promises nothing. -/
inductive Refusal where
  /-- Raised by `exec` for an operation that has no meaning yet. Safe. -/
  | notModelled (mnemonic : String)
  /-- Raised by every texel fetch from a tile of format 5, 6 or 7 (R160, R302). Safe. -/
  | reservedTileFormat
  /-- Raised by `RENDER_COPY` on a 4 or 8 bpp framebuffer (R240). Safe. -/
  | copyFramebufferSize
  /-- Raised by `LOD_COPY` when `tex_lod_en` is set (R288). Safe. -/
  | copyLevelOfDetail
  /-- Raised by `COPY_TEXEL16` for a tile that is not 16 bits per texel, without TLUT (R340). Safe. -/
  | copyTexelSize
deriving DecidableEq, Repr

/-- A colour of zeros. -/
def zeroColor (w : Nat) : Color w := ⟨0, 0, 0, 0⟩

/-- Three channels of zeros. -/
def zeroRgb (w : Nat) : Rgb w := ⟨0, 0, 0⟩

/-- Eight accumulators of zeros. -/
def zeroAttrs : Attrs := ⟨0, 0, 0, 0, 0, 0, 0, 0⟩

/-- An all-zero tile with the derived values R546 gives for it (R40, R78). -/
def Tile.reset : Tile where
  format := 0
  size := 0
  line := 0
  tmem := 0
  palette := 0
  cs := false
  ct := false
  ms := false
  mt := false
  maskS := 0
  maskT := 0
  shiftS := 0
  shiftT := 0
  sl := 0
  tl := 0
  sh := 0
  th := 0
  clampdiffs := 0
  clampdifft := 0
  clampens := true
  clampent := true
  masksclamped := 0
  masktclamped := 0
  notlutswitch := 0
  tlutswitch := 2

/-- The reset value of a span entry: all fields 0 (R50). -/
def Span.reset : Span where
  lx := 0
  rx := 0
  unscrx := 0
  validline := false
  attrs := zeroAttrs
  majorx := #v[0, 0, 0, 0]
  minorx := #v[0, 0, 0, 0]
  invalyscan := #v[false, false, false, false]

/-- The sequencer position at reset and after a crash (R30, R572). -/
def Seq.reset : Seq := ⟨.idle, 0, 0, 0, 0, 0⟩

/-- The colour registers at reset (R22, D11). -/
def ColorRegs.reset : ColorRegs where
  combined := ⟨0, 0, 0, 0⟩
  texel0 := zeroColor 9
  texel1 := zeroColor 9
  nexttexel := zeroColor 9
  shade := zeroColor 8
  prim := zeroColor 8
  env := zeroColor 8
  fog := zeroColor 8
  blend := zeroColor 8
  keyCenter := zeroRgb 8
  keyScale := zeroRgb 8
  keyWidth := zeroRgb 12
  pixel := ⟨0, 0, 0, 0⟩
  invPixelA := 0
  blendedPixel := ⟨0, 0, 0, 0⟩
  memory := zeroColor 8
  preMemory := zeroColor 8

/-- GraphicsState at reset (R78, R602). R32 gives the per-command, per-scanline and per-pixel flags no reset value: they are 0,
DESIGN CHOICE, log entry 5, unsafe. -/
def GraphicsState.reset : GraphicsState where
  col := .reset
  sca := ⟨0, 0, 0, 0, 0, 0, 0, 0, 0, 0⟩
  seq := .reset
  pipelineCrashed := false
  stale := true
  flags := ⟨false, false, false, false, false, false, false⟩
  der := ⟨0, 0, false, false, false, false, 0, 0, false, false⟩
  tiles := #v[.reset, .reset, .reset, .reset, .reset, .reset, .reset, .reset]
  om := 0
  cc := 0
  clip := ⟨0, 0, 0, 0, false, false⟩
  img := ⟨0, 0, 0, 0, 0⟩
  misc := ⟨0, 0, 0, 0, 1, 0⟩
  span := []
  slopes := ⟨0, 0, 0, 0, 0, 0, 0, 0, 0, 0, 0, 0, 0, 0, 0, 0, 0, 0, 0, 0, 0, 0⟩
  cvgbuf := []
  hid := ⟨Config.seed0, 0, 0, 0, 0, 0⟩

/-- The machine right after reset (R600, R602). The memories list nothing: an unlisted cell reads as 0, DESIGN CHOICE,
log entry 6 (the spec leaves launch contents open), unsafe. The result latch is empty, DESIGN CHOICE, log entry 12. -/
def State.reset : State where
  gs := .reset
  ram := []
  hidden := []
  tmem := []
  ramExtra := Config.ramExtra
  port := []
  ret := .none

end Sys2Proof.Machine
end

