-- ==== Sys2Proof/Machine/Ops.lean ====
section
/-! DEFINITION. The named operations every meaning is written with: integer helpers (`00_scope.md` rule R9), the sparse
stores, the access primitives of RDRAM, the hidden store and TMEM (`20_memory.md` rules R80 to R90), the span and coverage
buffers, one setter per group of state, and `raise Crash` (`60_exceptions.md` rule R572). -/

namespace Sys2Proof

/-! ### Eight accumulators at once -/

/-- Apply `f` to each attribute. -/
def Attrs.map (f : Word → Word) (x : Attrs) : Attrs := ⟨f x.r, f x.g, f x.b, f x.a, f x.s, f x.t, f x.w, f x.z⟩

/-- Combine two records attribute by attribute. -/
def Attrs.zip (f : Word → Word → Word) (x y : Attrs) : Attrs :=
  ⟨f x.r y.r, f x.g y.g, f x.b y.b, f x.a y.a, f x.s y.s, f x.t y.t, f x.w y.w, f x.z y.z⟩

/-- `wrap32(A + B)` for each attribute. -/
def Attrs.add (x y : Attrs) : Attrs := x.zip (· + ·) y

namespace Machine

/-! ### Integers (R9) -/

/-- `sext_N(v)`. -/
def sext (n : Nat) (v : Int) : Int := (BitVec.ofInt n v).toInt

/-- `clamp(v, lo, hi)`. -/
def clampInt (v lo hi : Int) : Int := if v < lo then lo else if v > hi then hi else v

/-- The value of the highest set bit of `v` among bits `n - 1 .. 0`; 0 when none is set. -/
def topBit : Nat → Nat → Nat
  | 0, _ => 0
  | n + 1, v => if v.testBit n then 2 ^ n else topBit n v

/-- The index of the highest set bit of `v` among bits `n - 1 .. 0`; 0 when none is set. -/
def topBitIndex : Nat → Nat → Nat
  | 0, _ => 0
  | n + 1, v => if v.testBit n then n else topBitIndex n v

/-- `for i = lo to lo + n - 1`, carrying `x`. -/
def forUp (body : Int → σ → σ) : Nat → Int → σ → σ
  | 0, _, x => x
  | n + 1, lo, x => forUp body n (lo + 1) (body lo x)

/-- `for i = lo to lo + n - 1`, carrying `x`, for a body that may refuse (R576). -/
def forUpE (body : Int → σ → Except Refusal σ) : Nat → Int → σ → Except Refusal σ
  | 0, _, x => .ok x
  | n + 1, lo, x =>
    match body lo x with
    | .ok x' => forUpE body n (lo + 1) x'
    | .error e => .error e

/-- How many values `lo .. hi` has. -/
def count (lo hi : Int) : Nat := (hi - lo + 1).toNat

/-! ### Sparse stores -/

/-- The value at key `a`; an unlisted key reads as `d`. -/
def storeGet (d : α) : List (Nat × α) → Nat → α
  | [], _ => d
  | (k, v) :: m, a => if k = a then v else storeGet d m a

/-- The store without key `a`. -/
def storeDrop : List (Nat × α) → Nat → List (Nat × α)
  | [], _ => []
  | (k, v) :: m, a => if k = a then storeDrop m a else (k, v) :: storeDrop m a

/-- Insert key `a` before the first larger key. -/
def storeInsert : List (Nat × α) → Nat → α → List (Nat × α)
  | [], a, v => [(a, v)]
  | (k, w) :: m, a, v => if a < k then (a, v) :: (k, w) :: m else (k, w) :: storeInsert m a v

/-- Write `v` at key `a`: the default value is not listed. -/
def storeSet [DecidableEq α] (d : α) (m : List (Nat × α)) (a : Nat) (v : α) : List (Nat × α) :=
  if v = d then storeDrop m a else storeInsert (storeDrop m a) a v

/-- Every key is above `lo` and keys rise strictly. -/
def keysAbove : Nat → List (Nat × α) → Bool
  | _, [] => true
  | lo, (k, _) :: m => decide (lo ≤ k) && keysAbove (k + 1) m

/-- The canonical form: keys rise strictly and no entry holds the default value. -/
def storeWf [DecidableEq α] (d : α) (m : List (Nat × α)) : Bool :=
  keysAbove 0 m && m.all (fun c => decide (c.2 ≠ d))

/-- Every key is below `n`. -/
def keysBelow (n : Nat) (m : List (Nat × α)) : Bool := m.all (fun c => decide (c.1 < n))

/-- What a byte of RDRAM or TMEM that nothing has written reads as. The spec leaves launch contents open (R60, U1);
DESIGN CHOICE, log entry 6, unsafe. -/
def unlistedByte : Byte := 0

/-- What a hidden entry that nothing has written reads as. DESIGN CHOICE, log entry 6, unsafe. -/
def unlistedHidden : BitVec 2 := 0

/-- The canonical form of a byte memory. -/
def Memory.wf (m : List Host.Cell) : Bool := storeWf unlistedByte m

/-! ### Setters, one per group of state -/

/-- Replace `gs`. -/
def State.setGs (s : State) (x : GraphicsState) : State := { s with gs := x }
/-- Replace the colour registers. -/
def State.setCol (s : State) (x : ColorRegs) : State := { s with gs := { s.gs with col := x } }
/-- Replace the scalar sources. -/
def State.setSca (s : State) (x : ScalarRegs) : State := { s with gs := { s.gs with sca := x } }
/-- Replace the sequencer position. -/
def State.setSeq (s : State) (x : Seq) : State := { s with gs := { s.gs with seq := x } }
/-- Replace `gs.pipeline_crashed`. -/
def State.setCrashed (s : State) (x : Bool) : State := { s with gs := { s.gs with pipelineCrashed := x } }
/-- Replace `gs.stale`. -/
def State.setStale (s : State) (x : Bool) : State := { s with gs := { s.gs with stale := x } }
/-- Replace the flags a draw rewrites. -/
def State.setFlags (s : State) (x : DrawFlags) : State := { s with gs := { s.gs with flags := x } }
/-- Replace the derived classification flags. -/
def State.setDer (s : State) (x : Derived) : State := { s with gs := { s.gs with der := x } }
/-- Replace the tile registers. -/
def State.setTiles (s : State) (x : Vector Tile 8) : State := { s with gs := { s.gs with tiles := x } }
/-- Replace `gs.om`. -/
def State.setOm (s : State) (x : BitVec 64) : State := { s with gs := { s.gs with om := x } }
/-- Replace `gs.cc`. -/
def State.setCc (s : State) (x : BitVec 64) : State := { s with gs := { s.gs with cc := x } }
/-- Replace the scissor register. -/
def State.setClip (s : State) (x : Clip) : State := { s with gs := { s.gs with clip := x } }
/-- Replace the image registers. -/
def State.setImg (s : State) (x : ImageRegs) : State := { s with gs := { s.gs with img := x } }
/-- Replace the registers of R47. -/
def State.setMisc (s : State) (x : MiscRegs) : State := { s with gs := { s.gs with misc := x } }
/-- Replace the span buffer. -/
def State.setSpan (s : State) (x : List (Nat × Span)) : State := { s with gs := { s.gs with span := x } }
/-- Replace the slope registers. -/
def State.setSlopes (s : State) (x : Slopes) : State := { s with gs := { s.gs with slopes := x } }
/-- Replace the coverage buffer. -/
def State.setCvgbuf (s : State) (x : List Host.Cell) : State := { s with gs := { s.gs with cvgbuf := x } }
/-- Replace the hidden registers. -/
def State.setHid (s : State) (x : HiddenRegs) : State := { s with gs := { s.gs with hid := x } }
/-- Replace RDRAM. -/
def State.setRam (s : State) (x : List Host.Cell) : State := { s with ram := x }
/-- Replace the hidden store. -/
def State.setHidden (s : State) (x : List (Nat × BitVec 2)) : State := { s with hidden := x }
/-- Replace TMEM. -/
def State.setTmem (s : State) (x : List Host.Cell) : State := { s with tmem := x }
/-- Replace the records at the command port. -/
def State.setPort (s : State) (x : List (List Byte)) : State := { s with port := x }
/-- Replace the result latch. -/
def State.setRet (s : State) (x : Ret) : State := { s with ret := x }

/-! ### RDRAM and the hidden store (R80 to R87) -/

/-- `RDRAM_BYTES`: "a power of two, at least 2^16" (R7, R80). -/
def State.ramBytes (s : State) : Nat := 2 ^ (16 + s.ramExtra)

/-- The byte at an address already inside RDRAM. -/
def State.ramByte (s : State) (a : Nat) : Byte := storeGet unlistedByte s.ram a

/-- Write the byte at an address already inside RDRAM. -/
def State.putRamByte (s : State) (a : Nat) (v : Byte) : State := s.setRam (storeSet unlistedByte s.ram a v)

/-- `i & (RDRAM_BYTES - 1)` (R82). -/
def State.mask8 (s : State) (i : Word) : Nat := i.toNat % s.ramBytes
/-- `i & (RDRAM_BYTES/2 - 1)` (R82). -/
def State.mask16 (s : State) (i : Word) : Nat := i.toNat % (s.ramBytes / 2)
/-- `i & (RDRAM_BYTES/4 - 1)` (R82). -/
def State.mask32 (s : State) (i : Word) : Nat := i.toNat % (s.ramBytes / 4)

/-- `Rd8(i)` (R84). -/
def State.rd8 (s : State) (i : Word) : Byte := s.ramByte (s.mask8 i)

/-- `Rd16(i)`, big-endian (R81, R84). -/
def State.rd16 (s : State) (i : Word) : BitVec 16 :=
  s.ramByte (2 * s.mask16 i) ++ s.ramByte (2 * s.mask16 i + 1)

/-- `Rd32(i)`, big-endian (R81, R84). -/
def State.rd32 (s : State) (i : Word) : Word :=
  (s.ramByte (4 * s.mask32 i) ++ s.ramByte (4 * s.mask32 i + 1)) ++
    (s.ramByte (4 * s.mask32 i + 2) ++ s.ramByte (4 * s.mask32 i + 3))

/-- `Wr8(i, v)` (R85). -/
def State.wr8 (s : State) (i : Word) (v : Byte) : State := s.putRamByte (s.mask8 i) v

/-- `Wr16(i, v)` (R85). -/
def State.wr16 (s : State) (i : Word) (v : BitVec 16) : State :=
  (s.putRamByte (2 * s.mask16 i) (v.extractLsb' 8 8)).putRamByte (2 * s.mask16 i + 1) (v.extractLsb' 0 8)

/-- `Wr32(i, v)` (R85). -/
def State.wr32 (s : State) (i : Word) (v : Word) : State :=
  (((s.putRamByte (4 * s.mask32 i) (v.extractLsb' 24 8)).putRamByte (4 * s.mask32 i + 1) (v.extractLsb' 16 8)).putRamByte
    (4 * s.mask32 i + 2) (v.extractLsb' 8 8)).putRamByte (4 * s.mask32 i + 3) (v.extractLsb' 0 8)

/-- `HidRd(u)` (R86). -/
def State.hidRd (s : State) (u : Word) : BitVec 2 := storeGet unlistedHidden s.hidden (s.mask16 u)

/-- `HidWr(u, h)` (R86); `u` is a number, so that `2*i` of `PairWr32` is not cut to a word before the mask. -/
def State.hidWr (s : State) (u : Nat) (h : BitVec 2) : State :=
  s.setHidden (storeSet unlistedHidden s.hidden (u % (s.ramBytes / 2)) h)

/-- `PairRd16(i)` (R87). -/
def State.pairRd16 (s : State) (i : Word) : BitVec 16 × BitVec 2 := (s.rd16 i, s.hidRd i)

/-- `PairWr16(i, v, h)` (R87). -/
def State.pairWr16 (s : State) (i : Word) (v : BitVec 16) (h : BitVec 2) : State := (s.wr16 i v).hidWr i.toNat h

/-- `PairWr8(i, v, h)`: the hidden entry is written only by the odd byte (R87). -/
def State.pairWr8 (s : State) (i : Word) (v : Byte) (h : BitVec 2) : State :=
  if i.getLsbD 0 then (s.wr8 i v).hidWr (i.toNat / 2) h else s.wr8 i v

/-- `PairWr32(i, v, h0, h1)` (R87). -/
def State.pairWr32 (s : State) (i : Word) (v : Word) (h0 h1 : BitVec 2) : State :=
  ((s.wr32 i v).hidWr (2 * i.toNat) h0).hidWr (2 * i.toNat + 1) h1

/-! ### TMEM (R90) -/

/-- The byte at a TMEM address already below 4096. -/
def State.tmemByte (s : State) (a : Nat) : Byte := storeGet unlistedByte s.tmem a

/-- `Tmem8(i)`. -/
def State.tmem8 (s : State) (i : Word) : Byte := s.tmemByte (i.toNat % Config.tmemBytes)

/-- `Tmem16(i)`. -/
def State.tmem16 (s : State) (i : Word) : BitVec 16 :=
  s.tmemByte (2 * (i.toNat % (Config.tmemBytes / 2))) ++ s.tmemByte (2 * (i.toNat % (Config.tmemBytes / 2)) + 1)

/-- `TmemWr16(i, v)`. R90 defines it; no rule uses it, since the transfer of `LOAD_TILE` is an OPEN parameter (R544). -/
def State.tmemWr16 (s : State) (i : Word) (v : BitVec 16) : State :=
  let a := 2 * (i.toNat % (Config.tmemBytes / 2))
  s.setTmem (storeSet unlistedByte (storeSet unlistedByte s.tmem a (v.extractLsb' 8 8)) (a + 1) (v.extractLsb' 0 8))

/-! ### Span buffer and coverage buffer (R50, R52) -/

/-- `gs.span[j]`. An index outside `0 .. MAX_SCANLINES-1` reads as an invalid entry (R220), DEDUCED, log entry 14, safe. -/
def State.spanAt (s : State) (j : Int) : Span :=
  if 0 ≤ j ∧ j < Config.maxScanlines then storeGet Span.reset s.gs.span j.toNat else Span.reset

/-- Write `gs.span[j]`; a write outside `0 .. MAX_SCANLINES-1` is discarded (R180). -/
def State.putSpan (s : State) (j : Int) (x : Span) : State :=
  if 0 ≤ j ∧ j < Config.maxScanlines then s.setSpan (storeSet Span.reset s.gs.span j.toNat x) else s

/-- `gs.cvgbuf[p]`. An index of `CVGBUF_LEN` or more, which no scissored span has, reads as 0, DESIGN CHOICE, log entry 13, unsafe. -/
def State.cvgAt (s : State) (p : Nat) : Byte :=
  if p < Config.cvgbufLen then storeGet unlistedByte s.gs.cvgbuf p else 0

/-- Write `gs.cvgbuf[p]`; an index of `CVGBUF_LEN` or more is discarded, DESIGN CHOICE, log entry 13, unsafe. -/
def State.putCvg (s : State) (p : Nat) (m : Byte) : State :=
  if p < Config.cvgbufLen then s.setCvgbuf (storeSet unlistedByte s.gs.cvgbuf p m) else s

/-- Tile register `n`. -/
def State.tile (s : State) (n : BitVec 3) : Tile := s.gs.tiles[n.toNat]

/-- Write tile register `n`. -/
def State.putTile (s : State) (n : BitVec 3) (t : Tile) : State := s.setTiles (s.gs.tiles.set n.toNat t)

/-! ### The sequencer position and the crash -/

/-- Set `gs.seq.phase`. -/
def State.setPhase (s : State) (p : Phase) : State := s.setSeq { s.gs.seq with phase := p }

/-- Set `gs.seq.cycle`, log entry 23. -/
def State.setCycle (s : State) (c : BitVec 1) : State := s.setSeq { s.gs.seq with cycle := c }

/-- `raise Crash(code)` (R572): the flag is set, the rest of the command is abandoned (the caller answers this state),
the position goes back to IDLE with zeros. The code is not recorded (R570), log entry 25. -/
def State.raiseCrash (s : State) : State := (s.setCrashed true).setSeq Seq.reset

/-- There is no return from a crash but reset (R574): `gs.pipeline_crashed` is cleared by nothing else. -/
def State.crashed (s : State) : Bool := s.gs.pipelineCrashed

/-! ### Outputs (R6, R46) -/

/-- The continuous outputs of the block: the framebuffer handoff to the video interface and the status flag. -/
def State.outputs (s : State) : BitVec 26 × BitVec 11 × BitVec 3 × BitVec 2 × Bool :=
  (s.gs.img.fbAddress, s.gs.img.fbWidth, s.gs.img.fbFormat, s.gs.img.fbSize, s.gs.pipelineCrashed)

/-! ### Outcomes -/

/-- The outcome of one step of this machine. -/
abbrev Result := Host.Outcome State Fault Refusal

/-- A stage that may refuse, as an outcome. -/
def ofExcept : Except Refusal State → Result
  | .ok s => .next s
  | .error e => .refused e

/-- A stage operation run on its own: what it returns goes to the result latch, log entry 11. -/
def retOf (s : State) (mk : α → Ret) : Except Refusal α → Result
  | .ok v => .next (s.setRet (mk v))
  | .error e => .refused e

end Machine

end Sys2Proof
end

