-- ==== Sys2Proof/Machine/Tables.lean ====
section
/-! DEFINITION. The constant tables (`10_state.md` rule R53) as functions of their index. -/

namespace Sys2Proof.Machine

/-- `ext9` (`44_combiner.md` R351): codes 0x180..0x1FF are negative, 0x100..0x17F stay positive. -/
def ext9 (i : BitVec 9) : Int := if i &&& 0x180 = 0x180 then (i.toNat : Int) - 0x200 else i.toNat

/-- `clamp9` (`44_combiner.md` R352). -/
def clamp9 (i : BitVec 9) : BitVec 8 :=
  match (i.toNat / 128) % 4 with
  | 0 => i.setWidth 8
  | 1 => i.setWidth 8
  | 2 => 0xFF
  | _ => 0

/-- One step of the bit-serial division (R400): `k` the step, `x` the partial remainder and the quotient so far. -/
def bldivStep (d n : Nat) (x : Nat × Nat) (k : Nat) : Nat × Nat :=
  let nbit := (n >>> (7 - k)) % 2
  let temp := if (x.2 &&& (0x100 >>> k)) ≠ 0 then (15 - d) + 2 * x.1 + nbit + 1 else d + 2 * x.1 + nbit
  (temp % 8, if temp.testBit 4 then x.2 ||| (1 <<< (7 - k)) else x.2)

/-- `bldiv` (`45_blender.md` R400): index bits 14:11 the divisor, bits 10:0 the dividend; 8 steps. -/
def bldiv (i : BitVec 15) : BitVec 8 :=
  let d := i.toNat / 2048
  let n := i.toNat % 2048
  BitVec.ofNat 8 ([0, 1, 2, 3, 4, 5, 6, 7].foldl (bldivStep d n) (((15 - d) + n / 256 + 1) % 8, 0)).2

/-- `zcom` (`46_zbuffer.md` R421): `Z_COMPRESS`. -/
def zCompress (z : BitVec 18) : BitVec 16 :=
  let top := (z.toNat / 2048) % 128
  let v : BitVec 32 := z.setWidth 32
  let w : BitVec 32 :=
    if top < 0x40 then (v >>> 4) &&& 0x1FFC
    else if top < 0x60 then ((v >>> 3) &&& 0x1FFC) ||| 0x2000
    else if top < 0x70 then ((v >>> 2) &&& 0x1FFC) ||| 0x4000
    else if top < 0x78 then ((v >>> 1) &&& 0x1FFC) ||| 0x6000
    else if top < 0x7C then (v &&& 0x1FFC) ||| 0x8000
    else if top < 0x7E then ((v <<< 1) &&& 0x1FFC) ||| 0xA000
    else if top = 0x7E then ((v <<< 2) &&& 0x1FFC) ||| 0xC000
    else ((v <<< 2) &&& 0x1FFC) ||| 0xE000
  w.setWidth 16

/-- The shift of each exponent in `zdec` (R422). -/
def zdecShift (e : BitVec 3) : Nat := 6 - e.toNat

/-- The offset of each exponent in `zdec` (R422). -/
def zdecAdd (e : BitVec 3) : BitVec 18 :=
  match e.toNat with
  | 0 => 0
  | 1 => 0x20000
  | 2 => 0x30000
  | 3 => 0x38000
  | 4 => 0x3C000
  | 5 => 0x3E000
  | 6 => 0x3F000
  | _ => 0x3F800

/-- `zdec` (`46_zbuffer.md` R422): `Z_DECOMPRESS` of a 16-bit memory word. -/
def zDecompress (zval : BitVec 16) : BitVec 18 :=
  let e := zval.extractLsb' 13 3
  let m : BitVec 18 := (zval.extractLsb' 2 11).setWidth 18
  (m <<< zdecShift e) + zdecAdd e

/-- `dzcmp` (`46_zbuffer.md` R424): the value of the highest set bit, 0 for 0. -/
def dzcmp (v : BitVec 16) : BitVec 16 := BitVec.ofNat 16 (topBit 16 v.toNat)

/-- `dz_compress` (`46_zbuffer.md` R425). -/
def dzCompress (v : BitVec 16) : BitVec 4 :=
  BitVec.ofBool (decide (v &&& 0xFF00 ≠ 0)) ++ (BitVec.ofBool (decide (v &&& 0xF0F0 ≠ 0)) ++
    (BitVec.ofBool (decide (v &&& 0xCCCC ≠ 0)) ++ BitVec.ofBool (decide (v &&& 0xAAAA ≠ 0))))

/-- `dz_decompress` (`46_zbuffer.md` R425). -/
def dzDecompress (c : BitVec 4) : BitVec 16 := 1 <<< c.toNat

/-- `popcount8` (R9). -/
def popcount8 (m : Byte) : Nat :=
  ([0, 1, 2, 3, 4, 5, 6, 7].filter (fun k => m.getLsbD k)).length

/-- An entry of `cvlut`: `{cvg, cvbit, xoff, yoff}` (R460). -/
structure CvgEntry where
  cvg : BitVec 4
  cvbit : Bool
  xoff : BitVec 2
  yoff : BitVec 2
deriving DecidableEq, Repr

/-- The samples of a mask in raster order, as (bit, column, sub-scanline) (`47_coverage_dither.md` R452). -/
def cvgSamples : List (Nat × BitVec 2 × BitVec 2) :=
  [(7, 0, 0), (5, 2, 0), (6, 1, 1), (4, 3, 1), (3, 0, 2), (1, 2, 2), (2, 1, 3), (0, 3, 3)]

/-- `cvlut` (`47_coverage_dither.md` R460): popcount, bit 7, and the first set sample in raster order. -/
def cvlut (m : Byte) : CvgEntry :=
  let off : BitVec 2 × BitVec 2 :=
    match cvgSamples.find? (fun p => m.getLsbD p.1) with
    | some p => p.2
    | none => (0, 0)
  { cvg := BitVec.ofNat 4 (popcount8 m), cvbit := m.getLsbD 7, xoff := off.1, yoff := off.2 }

/-- `bayer` (`47_coverage_dither.md` R471). -/
def bayer : Vector (BitVec 3) 16 := #v[0, 4, 1, 5, 4, 0, 5, 1, 3, 7, 2, 6, 7, 3, 6, 2]

/-- `magic` (`47_coverage_dither.md` R471). -/
def magic : Vector (BitVec 3) 16 := #v[0, 6, 1, 7, 4, 2, 5, 3, 3, 5, 2, 4, 7, 1, 6, 0]

/-- `log2t` (`42_texture_unit.md` R281). -/
def log2t (v : BitVec 8) : BitVec 3 := BitVec.ofNat 3 (topBitIndex 8 v.toNat)

/-- `maskbits` (`42_texture_unit.md` R272). -/
def maskbits (i : BitVec 4) : BitVec 12 := BitVec.ofNat 12 ((0xFFFF >>> (16 - i.toNat)) &&& 0x3FF)

end Sys2Proof.Machine
end

