-- ==== Sys2Proof/Machine/Flags.lean ====
section
/-! DEFINITION. The fields of the OtherModes and combine registers (`10_state.md` rules R41, R42) and the classification
flags computed from them: `DEDUCE_DERIVATIVES` (`49_config_commands.md` rule R560). -/

namespace Sys2Proof.Machine

/-! ### Fields of `gs.om` (R41) -/

/-- `cycle_type`, bits 53:52. -/
def Om.cycleType (om : BitVec 64) : BitVec 2 := om.extractLsb' 52 2
/-- `persp_tex_en`, bit 51. -/
def Om.perspTexEn (om : BitVec 64) : Bool := om.getLsbD 51
/-- `detail_tex_en`, bit 50. -/
def Om.detailTexEn (om : BitVec 64) : Bool := om.getLsbD 50
/-- `sharpen_tex_en`, bit 49. -/
def Om.sharpenTexEn (om : BitVec 64) : Bool := om.getLsbD 49
/-- `tex_lod_en`, bit 48. -/
def Om.texLodEn (om : BitVec 64) : Bool := om.getLsbD 48
/-- `en_tlut`, bit 47. -/
def Om.enTlut (om : BitVec 64) : Bool := om.getLsbD 47
/-- `tlut_type`, bit 46. -/
def Om.tlutType (om : BitVec 64) : Bool := om.getLsbD 46
/-- `sample_type`, bit 45. -/
def Om.sampleType (om : BitVec 64) : Bool := om.getLsbD 45
/-- `mid_texel`, bit 44. -/
def Om.midTexel (om : BitVec 64) : Bool := om.getLsbD 44
/-- `bi_lerp0`, bit 43. -/
def Om.biLerp0 (om : BitVec 64) : Bool := om.getLsbD 43
/-- `bi_lerp1`, bit 42. -/
def Om.biLerp1 (om : BitVec 64) : Bool := om.getLsbD 42
/-- `convert_one`, bit 41. -/
def Om.convertOne (om : BitVec 64) : Bool := om.getLsbD 41
/-- `key_en`, bit 40. -/
def Om.keyEn (om : BitVec 64) : Bool := om.getLsbD 40
/-- `rgb_dither_sel`, bits 39:38. -/
def Om.rgbDitherSel (om : BitVec 64) : BitVec 2 := om.extractLsb' 38 2
/-- `alpha_dither_sel`, bits 37:36. -/
def Om.alphaDitherSel (om : BitVec 64) : BitVec 2 := om.extractLsb' 36 2
/-- `blend_m1a_0`, bits 31:30. -/
def Om.blendM1a0 (om : BitVec 64) : BitVec 2 := om.extractLsb' 30 2
/-- `blend_m1a_1`, bits 29:28. -/
def Om.blendM1a1 (om : BitVec 64) : BitVec 2 := om.extractLsb' 28 2
/-- `blend_m1b_0`, bits 27:26. -/
def Om.blendM1b0 (om : BitVec 64) : BitVec 2 := om.extractLsb' 26 2
/-- `blend_m1b_1`, bits 25:24. -/
def Om.blendM1b1 (om : BitVec 64) : BitVec 2 := om.extractLsb' 24 2
/-- `blend_m2a_0`, bits 23:22. -/
def Om.blendM2a0 (om : BitVec 64) : BitVec 2 := om.extractLsb' 22 2
/-- `blend_m2a_1`, bits 21:20. -/
def Om.blendM2a1 (om : BitVec 64) : BitVec 2 := om.extractLsb' 20 2
/-- `blend_m2b_0`, bits 19:18. -/
def Om.blendM2b0 (om : BitVec 64) : BitVec 2 := om.extractLsb' 18 2
/-- `blend_m2b_1`, bits 17:16. -/
def Om.blendM2b1 (om : BitVec 64) : BitVec 2 := om.extractLsb' 16 2
/-- `force_blend`, bit 14. -/
def Om.forceBlend (om : BitVec 64) : Bool := om.getLsbD 14
/-- `alpha_cvg_select`, bit 13. -/
def Om.alphaCvgSelect (om : BitVec 64) : Bool := om.getLsbD 13
/-- `cvg_times_alpha`, bit 12. -/
def Om.cvgTimesAlpha (om : BitVec 64) : Bool := om.getLsbD 12
/-- `z_mode`, bits 11:10. -/
def Om.zMode (om : BitVec 64) : BitVec 2 := om.extractLsb' 10 2
/-- `cvg_dest`, bits 9:8. -/
def Om.cvgDest (om : BitVec 64) : BitVec 2 := om.extractLsb' 8 2
/-- `color_on_cvg`, bit 7. -/
def Om.colorOnCvg (om : BitVec 64) : Bool := om.getLsbD 7
/-- `image_read_en`, bit 6. -/
def Om.imageReadEn (om : BitVec 64) : Bool := om.getLsbD 6
/-- `z_update_en`, bit 5. -/
def Om.zUpdateEn (om : BitVec 64) : Bool := om.getLsbD 5
/-- `z_compare_en`, bit 4. -/
def Om.zCompareEn (om : BitVec 64) : Bool := om.getLsbD 4
/-- `antialias_en`, bit 3. -/
def Om.antialiasEn (om : BitVec 64) : Bool := om.getLsbD 3
/-- `z_source_sel`, bit 2. -/
def Om.zSourceSel (om : BitVec 64) : Bool := om.getLsbD 2
/-- `dither_alpha_en`, bit 1. -/
def Om.ditherAlphaEn (om : BitVec 64) : Bool := om.getLsbD 1
/-- `alpha_compare_en`, bit 0. -/
def Om.alphaCompareEn (om : BitVec 64) : Bool := om.getLsbD 0

/-! ### Fields of `gs.cc` (R42) -/

/-- `sub_a_rgb0`, bits 55:52. -/
def Cc.subARgb0 (cc : BitVec 64) : BitVec 4 := cc.extractLsb' 52 4
/-- `mul_rgb0`, bits 51:47. -/
def Cc.mulRgb0 (cc : BitVec 64) : BitVec 5 := cc.extractLsb' 47 5
/-- `sub_a_a0`, bits 46:44. -/
def Cc.subAA0 (cc : BitVec 64) : BitVec 3 := cc.extractLsb' 44 3
/-- `mul_a0`, bits 43:41. -/
def Cc.mulA0 (cc : BitVec 64) : BitVec 3 := cc.extractLsb' 41 3
/-- `sub_a_rgb1`, bits 40:37. -/
def Cc.subARgb1 (cc : BitVec 64) : BitVec 4 := cc.extractLsb' 37 4
/-- `mul_rgb1`, bits 36:32. -/
def Cc.mulRgb1 (cc : BitVec 64) : BitVec 5 := cc.extractLsb' 32 5
/-- `sub_b_rgb0`, bits 31:28. -/
def Cc.subBRgb0 (cc : BitVec 64) : BitVec 4 := cc.extractLsb' 28 4
/-- `sub_b_rgb1`, bits 27:24. -/
def Cc.subBRgb1 (cc : BitVec 64) : BitVec 4 := cc.extractLsb' 24 4
/-- `sub_a_a1`, bits 23:21. -/
def Cc.subAA1 (cc : BitVec 64) : BitVec 3 := cc.extractLsb' 21 3
/-- `mul_a1`, bits 20:18. -/
def Cc.mulA1 (cc : BitVec 64) : BitVec 3 := cc.extractLsb' 18 3
/-- `add_rgb0`, bits 17:15. -/
def Cc.addRgb0 (cc : BitVec 64) : BitVec 3 := cc.extractLsb' 15 3
/-- `sub_b_a0`, bits 14:12. -/
def Cc.subBA0 (cc : BitVec 64) : BitVec 3 := cc.extractLsb' 12 3
/-- `add_a0`, bits 11:9. -/
def Cc.addA0 (cc : BitVec 64) : BitVec 3 := cc.extractLsb' 9 3
/-- `add_rgb1`, bits 8:6. -/
def Cc.addRgb1 (cc : BitVec 64) : BitVec 3 := cc.extractLsb' 6 3
/-- `sub_b_a1`, bits 5:3. -/
def Cc.subBA1 (cc : BitVec 64) : BitVec 3 := cc.extractLsb' 3 3
/-- `add_a1`, bits 2:0. -/
def Cc.addA1 (cc : BitVec 64) : BitVec 3 := cc.extractLsb' 0 3

/-! ### What the selectors of a cycle reference (R560) -/

/-- `texel0_used(n)`: a selector of cycle 1 (`second`) or cycle 0 references `texel0`, its colour or its alpha view. -/
def texel0Used (cc : BitVec 64) (second : Bool) : Bool :=
  match second with
  | false => Cc.subARgb0 cc == 1 || Cc.subBRgb0 cc == 1 || Cc.mulRgb0 cc == 1 || Cc.mulRgb0 cc == 8 || Cc.addRgb0 cc == 1
      || Cc.subAA0 cc == 1 || Cc.subBA0 cc == 1 || Cc.mulA0 cc == 1 || Cc.addA0 cc == 1
  | true => Cc.subARgb1 cc == 1 || Cc.subBRgb1 cc == 1 || Cc.mulRgb1 cc == 1 || Cc.mulRgb1 cc == 8 || Cc.addRgb1 cc == 1
      || Cc.subAA1 cc == 1 || Cc.subBA1 cc == 1 || Cc.mulA1 cc == 1 || Cc.addA1 cc == 1

/-- `texel1_used(n)`. -/
def texel1Used (cc : BitVec 64) (second : Bool) : Bool :=
  match second with
  | false => Cc.subARgb0 cc == 2 || Cc.subBRgb0 cc == 2 || Cc.mulRgb0 cc == 2 || Cc.mulRgb0 cc == 9 || Cc.addRgb0 cc == 2
      || Cc.subAA0 cc == 2 || Cc.subBA0 cc == 2 || Cc.mulA0 cc == 2 || Cc.addA0 cc == 2
  | true => Cc.subARgb1 cc == 2 || Cc.subBRgb1 cc == 2 || Cc.mulRgb1 cc == 2 || Cc.mulRgb1 cc == 9 || Cc.addRgb1 cc == 2
      || Cc.subAA1 cc == 2 || Cc.subBA1 cc == 2 || Cc.mulA1 cc == 2 || Cc.addA1 cc == 2

/-- `lodfrac_used(n)`. -/
def lodfracUsed (cc : BitVec 64) (second : Bool) : Bool :=
  match second with
  | false => Cc.mulRgb0 cc == 13 || Cc.mulA0 cc == 0
  | true => Cc.mulRgb1 cc == 13 || Cc.mulA1 cc == 0

/-- `noise_used(n)`. -/
def noiseUsed (cc : BitVec 64) (second : Bool) : Bool :=
  match second with
  | false => Cc.subARgb0 cc == 7
  | true => Cc.subARgb1 cc == 7

/-- The classification flags of the registers `om` and `cc` (R560). -/
def deduce (om cc : BitVec 64) : Derived :=
  let one : Bool := Om.cycleType om == 0
  let two : Bool := Om.cycleType om == 1
  let bsel0 := Om.blendM2b0 om == 1
  let bsel1 := Om.blendM2b1 om == 1
  let rgbAlphaDither : BitVec 4 := Om.rgbDitherSel om ++ Om.alphaDitherSel om
  let lodfracused := (two && (lodfracUsed cc false || lodfracUsed cc true)) || (one && lodfracUsed cc true)
  let noise := (one && noiseUsed cc true) || (two && (noiseUsed cc false || noiseUsed cc true))
  { cycle1Mode := if texel1Used cc true then 2 else if texel0Used cc true || lodfracUsed cc true then 1 else 0
    cycle2Mode :=
      if texel1Used cc true then 3
      else if texel1Used cc false || texel0Used cc true then 2
      else if texel0Used cc false || lodfracUsed cc false || lodfracUsed cc true then 1
      else 0
    partialreject1cycle := Om.blendM2b0 om == 0 && Om.blendM1b0 om == 0
    partialreject2cycle := Om.blendM2b1 om == 0 && Om.blendM1b1 om == 0
    realShiftersNeeded := (bsel0 && one) || (bsel1 && two)
    interpixelShiftersNeeded := bsel0 && two
    rgbAlphaDither := rgbAlphaDither
    ditherLevel := if noise || Om.alphaDitherSel om == 2 then 0 else if rgbAlphaDither != 15 then 1 else 2
    dolod := Om.texLodEn om || lodfracused
    persp := Om.perspTexEn om }

/-- `DEDUCE_DERIVATIVES` (R560): the flags of R33 from `gs.om` and `gs.cc`; it clears `gs.stale` (R32), DEDUCED, log entry 26, safe. -/
def State.deduceDerivatives (s : State) : State := (s.setDer (deduce s.gs.om s.gs.cc)).setStale false

/-- The meaning of `DEDUCE_DERIVATIVES`. -/
def execDeduceDerivatives (s : State) : Result := .next s.deduceDerivatives

end Sys2Proof.Machine
end

