-- ==== Sys2Proof/Machine/Operands.lean ====
section
/-! DEFINITION. The operand forms: the closed source set (`10_state.md` rules R21 to R25), how a source resolves to a
colour and an alpha, and the selector code tables of the combiner (`44_combiner.md` rule R354) and the blender
(`45_blender.md` rule R392). -/

namespace Sys2Proof.Machine

/-- The source set (R25): the source's list, then the members R354 and R392 add. -/
inductive Source where
  | combined
  | texel0
  | texel1
  | prim
  | shade
  | env
  | fog
  | blend
  | noise
  | keyCenter
  | lodFrac
  | primLodFrac
  | yuvK4
  | yuvK5
  | zero
  | one
  | keyScale
  | combinedAlpha
  | texel0Alpha
  | texel1Alpha
  | primAlpha
  | shadeAlpha
  | envAlpha
  | pixel
  | blendedPixel
  | memory
  | invPixelAlpha
  | memoryAlpha
  | fogAlpha
  | blenderOne
deriving DecidableEq, Repr

/-- A scalar delivered on all three colour channels (R21, R23). -/
def splat (v : BitVec w) : Rgb w := ⟨v, v, v⟩

/-- The low 9 bits of three channels: "Every combiner input is the low 9 bits of the selected register channel" (R353). -/
def rgbLow9 (r g b : BitVec w) : Rgb 9 := ⟨r.setWidth 9, g.setWidth 9, b.setWidth 9⟩

/-- The colour a source delivers; "'RGB-from-alpha' views" deliver the register's alpha on all channels (R21). -/
def Source.rgb (s : State) : Source → Rgb 9
  | .combined => rgbLow9 s.gs.col.combined.r s.gs.col.combined.g s.gs.col.combined.b
  | .texel0 => ⟨s.gs.col.texel0.r, s.gs.col.texel0.g, s.gs.col.texel0.b⟩
  | .texel1 => ⟨s.gs.col.texel1.r, s.gs.col.texel1.g, s.gs.col.texel1.b⟩
  | .prim => rgbLow9 s.gs.col.prim.r s.gs.col.prim.g s.gs.col.prim.b
  | .shade => rgbLow9 s.gs.col.shade.r s.gs.col.shade.g s.gs.col.shade.b
  | .env => rgbLow9 s.gs.col.env.r s.gs.col.env.g s.gs.col.env.b
  | .fog => rgbLow9 s.gs.col.fog.r s.gs.col.fog.g s.gs.col.fog.b
  | .blend => rgbLow9 s.gs.col.blend.r s.gs.col.blend.g s.gs.col.blend.b
  | .noise => splat s.gs.sca.noise
  | .keyCenter => rgbLow9 s.gs.col.keyCenter.r s.gs.col.keyCenter.g s.gs.col.keyCenter.b
  | .lodFrac => splat s.gs.sca.lodFrac
  | .primLodFrac => splat (s.gs.sca.primLodFrac.setWidth 9)
  | .yuvK4 => splat s.gs.sca.k4
  | .yuvK5 => splat s.gs.sca.k5
  | .zero => splat 0
  | .one => splat 0x100
  | .keyScale => rgbLow9 s.gs.col.keyScale.r s.gs.col.keyScale.g s.gs.col.keyScale.b
  | .combinedAlpha => splat s.gs.col.combined.a
  | .texel0Alpha => splat s.gs.col.texel0.a
  | .texel1Alpha => splat s.gs.col.texel1.a
  | .primAlpha => splat (s.gs.col.prim.a.setWidth 9)
  | .shadeAlpha => splat (s.gs.col.shade.a.setWidth 9)
  | .envAlpha => splat (s.gs.col.env.a.setWidth 9)
  | .pixel => rgbLow9 s.gs.col.pixel.r s.gs.col.pixel.g s.gs.col.pixel.b
  | .blendedPixel => rgbLow9 s.gs.col.blendedPixel.r s.gs.col.blendedPixel.g s.gs.col.blendedPixel.b
  | .memory => rgbLow9 s.gs.col.memory.r s.gs.col.memory.g s.gs.col.memory.b
  | .invPixelAlpha => splat (s.gs.col.invPixelA.setWidth 9)
  | .memoryAlpha => splat (s.gs.col.memory.a.setWidth 9)
  | .fogAlpha => splat (s.gs.col.fog.a.setWidth 9)
  | .blenderOne => splat 0xFF

/-- The alpha a source delivers: a colour register's alpha channel, a scalar or an alpha view itself. The key registers,
which have no alpha channel (R22) and which no alpha selector names, deliver 0. -/
def Source.alpha (s : State) : Source → BitVec 9
  | .combined => s.gs.col.combined.a
  | .texel0 => s.gs.col.texel0.a
  | .texel1 => s.gs.col.texel1.a
  | .prim => s.gs.col.prim.a.setWidth 9
  | .shade => s.gs.col.shade.a.setWidth 9
  | .env => s.gs.col.env.a.setWidth 9
  | .fog => s.gs.col.fog.a.setWidth 9
  | .blend => s.gs.col.blend.a.setWidth 9
  | .noise => s.gs.sca.noise
  | .keyCenter => 0
  | .lodFrac => s.gs.sca.lodFrac
  | .primLodFrac => s.gs.sca.primLodFrac.setWidth 9
  | .yuvK4 => s.gs.sca.k4
  | .yuvK5 => s.gs.sca.k5
  | .zero => 0
  | .one => 0x100
  | .keyScale => 0
  | .combinedAlpha => s.gs.col.combined.a
  | .texel0Alpha => s.gs.col.texel0.a
  | .texel1Alpha => s.gs.col.texel1.a
  | .primAlpha => s.gs.col.prim.a.setWidth 9
  | .shadeAlpha => s.gs.col.shade.a.setWidth 9
  | .envAlpha => s.gs.col.env.a.setWidth 9
  | .pixel => s.gs.col.pixel.a
  | .blendedPixel => s.gs.col.blendedPixel.a
  | .memory => s.gs.col.memory.a.setWidth 9
  | .invPixelAlpha => s.gs.col.invPixelA.setWidth 9
  | .memoryAlpha => s.gs.col.memory.a.setWidth 9
  | .fogAlpha => s.gs.col.fog.a.setWidth 9
  | .blenderOne => 0xFF

/-! ### Combiner selector codes (R354) -/

/-- Codes 0 to 5, common to every RGB table. -/
def commonRgb (code : Nat) : Option Source :=
  match code with
  | 0 => some .combined
  | 1 => some .texel0
  | 2 => some .texel1
  | 3 => some .prim
  | 4 => some .shade
  | 5 => some .env
  | _ => none

/-- `sub_a_rgb` (A). -/
def subARgbSource (code : BitVec 4) : Source :=
  match code.toNat with
  | 6 => .one
  | 7 => .noise
  | n => (commonRgb n).getD .zero

/-- `sub_b_rgb` (B). -/
def subBRgbSource (code : BitVec 4) : Source :=
  match code.toNat with
  | 6 => .keyCenter
  | 7 => .yuvK4
  | n => (commonRgb n).getD .zero

/-- `mul_rgb` (C). -/
def mulRgbSource (code : BitVec 5) : Source :=
  match code.toNat with
  | 6 => .keyScale
  | 7 => .combinedAlpha
  | 8 => .texel0Alpha
  | 9 => .texel1Alpha
  | 10 => .primAlpha
  | 11 => .shadeAlpha
  | 12 => .envAlpha
  | 13 => .lodFrac
  | 14 => .primLodFrac
  | 15 => .yuvK5
  | n => (commonRgb n).getD .zero

/-- `add_rgb` (D). -/
def addRgbSource (code : BitVec 3) : Source :=
  match code.toNat with
  | 6 => .one
  | n => (commonRgb n).getD .zero

/-- `sub_a_a`, `sub_b_a`, `add_a` (A, B and D of the alpha equation): the register whose alpha is read. -/
def alphaSource (code : BitVec 3) : Source :=
  match code.toNat with
  | 6 => .one
  | n => (commonRgb n).getD .zero

/-- `mul_a` (C of the alpha equation). -/
def mulASource (code : BitVec 3) : Source :=
  match code.toNat with
  | 0 => .lodFrac
  | 6 => .primLodFrac
  | n => (commonRgb n).getD .zero

/-- The eight combiner sources of one cycle (R354). -/
structure CombinerSources where
  aRgb : Source
  bRgb : Source
  cRgb : Source
  dRgb : Source
  aA : Source
  bA : Source
  cA : Source
  dA : Source
deriving DecidableEq, Repr

/-- The sources the fields of cycle 0 select. -/
def combinerSources0 (cc : BitVec 64) : CombinerSources where
  aRgb := subARgbSource (Cc.subARgb0 cc)
  bRgb := subBRgbSource (Cc.subBRgb0 cc)
  cRgb := mulRgbSource (Cc.mulRgb0 cc)
  dRgb := addRgbSource (Cc.addRgb0 cc)
  aA := alphaSource (Cc.subAA0 cc)
  bA := alphaSource (Cc.subBA0 cc)
  cA := mulASource (Cc.mulA0 cc)
  dA := alphaSource (Cc.addA0 cc)

/-- The sources the fields of cycle 1 select. -/
def combinerSources1 (cc : BitVec 64) : CombinerSources where
  aRgb := subARgbSource (Cc.subARgb1 cc)
  bRgb := subBRgbSource (Cc.subBRgb1 cc)
  cRgb := mulRgbSource (Cc.mulRgb1 cc)
  dRgb := addRgbSource (Cc.addRgb1 cc)
  aA := alphaSource (Cc.subAA1 cc)
  bA := alphaSource (Cc.subBA1 cc)
  cA := mulASource (Cc.mulA1 cc)
  dA := alphaSource (Cc.addA1 cc)

/-! ### Blender selector codes (R392) -/

/-- 1A and 2A: code 0 is `gs.pixel` in cycle 0 and `gs.blended_pixel` in cycle 1 (`second`). -/
def blendColorSource (second : Bool) (code : BitVec 2) : Source :=
  match code.toNat with
  | 0 => match second with
    | false => .pixel
    | true => .blendedPixel
  | 1 => .memory
  | 2 => .blend
  | _ => .fog

/-- 1B: the source whose alpha is the factor. -/
def blend1bSource (code : BitVec 2) : Source :=
  match code.toNat with
  | 0 => .pixel
  | 1 => .fogAlpha
  | 2 => .shadeAlpha
  | _ => .zero

/-- 2B: the source whose alpha is the factor. -/
def blend2bSource (code : BitVec 2) : Source :=
  match code.toNat with
  | 0 => .invPixelAlpha
  | 1 => .memoryAlpha
  | 2 => .blenderOne
  | _ => .zero

/-- The four blender input codes of cycle 1 (`second`) or cycle 0 (R43). -/
structure BlendCodes where
  m1a : BitVec 2
  m1b : BitVec 2
  m2a : BitVec 2
  m2b : BitVec 2
deriving DecidableEq, Repr

/-- The codes that `gs.om` holds for a cycle (R43). -/
def blendCodes (om : BitVec 64) (second : Bool) : BlendCodes :=
  match second with
  | false => ⟨Om.blendM1a0 om, Om.blendM1b0 om, Om.blendM2a0 om, Om.blendM2b0 om⟩
  | true => ⟨Om.blendM1a1 om, Om.blendM1b1 om, Om.blendM2a1 om, Om.blendM2b1 om⟩

/-- Input 1A (colour P) of a cycle. -/
def blend1a (s : State) (second : Bool) : Rgb 9 := (blendColorSource second (blendCodes s.gs.om second).m1a).rgb s

/-- Input 2A (colour M) of a cycle. -/
def blend2a (s : State) (second : Bool) : Rgb 9 := (blendColorSource second (blendCodes s.gs.om second).m2a).rgb s

/-- Input 1B (factor A) of a cycle. -/
def blend1b (s : State) (second : Bool) : BitVec 9 := (blend1bSource (blendCodes s.gs.om second).m1b).alpha s

/-- Input 2B (factor B) of a cycle. -/
def blend2b (s : State) (second : Bool) : BitVec 9 := (blend2bSource (blendCodes s.gs.om second).m2b).alpha s

end Sys2Proof.Machine
end

