-- ==== Sys2Proof/Machine/Commands.lean ====
section
/-! DEFINITION. The state-setting commands (`49_config_commands.md` rules R530 to R559) except the tile commands. Each
"completes in one step; it raises no exception; it writes no flag but `gs.stale` where said" (R530). -/

namespace Sys2Proof.Machine

/-- "bits 63:56 of the record are the command tag's place and are dropped" (R532). -/
def modeBits (v : BitVec 64) : BitVec 64 := v &&& 0x00FFFFFFFFFFFFFF

/-- `SET_OTHER_MODES` (R532). -/
def execSetOtherModes (om : BitVec 64) (s : State) : Result := .next ((s.setOm (modeBits om)).setStale true)

/-- `SET_COMBINE_MODE` (R534). -/
def execSetCombineMode (cc : BitVec 64) (s : State) : Result := .next ((s.setCc (modeBits cc)).setStale true)

/-- `SET_COLOR_IMAGE` (R552): "the record holds pixels per line minus one". -/
def execSetColorImage (format : BitVec 3) (size : BitVec 2) (width : BitVec 10) (address : BitVec 26) (s : State) :
    Result :=
  .next (s.setImg { s.gs.img with
    fbFormat := format, fbSize := size, fbWidth := width.setWidth 11 + 1, fbAddress := address })

/-- `SET_Z_IMAGE` (R553). -/
def execSetZImage (address : BitVec 26) (s : State) : Result := .next (s.setImg { s.gs.img with zbAddress := address })

/-- `SET_FILL_COLOR` (R554). -/
def execSetFillColor (color : BitVec 32) (s : State) : Result := .next (s.setMisc { s.gs.misc with fillColor := color })

/-- `SET_FOG_COLOR` (R555). -/
def execSetFogColor (r g b a : BitVec 8) (s : State) : Result := .next (s.setCol { s.gs.col with fog := ⟨r, g, b, a⟩ })

/-- `SET_BLEND_COLOR` (R555). -/
def execSetBlendColor (r g b a : BitVec 8) (s : State) : Result :=
  .next (s.setCol { s.gs.col with blend := ⟨r, g, b, a⟩ })

/-- `SET_ENV_COLOR` (R555). -/
def execSetEnvColor (r g b a : BitVec 8) (s : State) : Result := .next (s.setCol { s.gs.col with env := ⟨r, g, b, a⟩ })

/-- `SET_PRIM_COLOR` (R556). -/
def execSetPrimColor (minLevel : BitVec 5) (primLodFrac r g b a : BitVec 8) (s : State) : Result :=
  .next ((s.setSca { s.gs.sca with minLevel := minLevel, primLodFrac := primLodFrac }).setCol
    { s.gs.col with prim := ⟨r, g, b, a⟩ })

/-- `SET_KEY_R` (R557). -/
def execSetKeyR (widthR : BitVec 12) (centerR scaleR : BitVec 8) (s : State) : Result :=
  .next (s.setCol { s.gs.col with
    keyWidth := { s.gs.col.keyWidth with r := widthR }
    keyCenter := { s.gs.col.keyCenter with r := centerR }
    keyScale := { s.gs.col.keyScale with r := scaleR } })

/-- `SET_KEY_GB` (R557). -/
def execSetKeyGb (widthG widthB : BitVec 12) (centerG scaleG centerB scaleB : BitVec 8) (s : State) : Result :=
  .next (s.setCol { s.gs.col with
    keyWidth := { s.gs.col.keyWidth with g := widthG, b := widthB }
    keyCenter := { s.gs.col.keyCenter with g := centerG, b := centerB }
    keyScale := { s.gs.col.keyScale with g := scaleG, b := scaleB } })

/-- `SET_CONVERT` (R558). -/
def execSetConvert (k0 k1 k2 k3 k4 k5 : BitVec 9) (s : State) : Result :=
  .next (s.setSca { s.gs.sca with k0 := k0, k1 := k1, k2 := k2, k3 := k3, k4 := k4, k5 := k5 })

/-- `SET_SCISSOR` (R559). -/
def execSetScissor (xh yh xl yl : BitVec 12) (field odd : Bool) (s : State) : Result :=
  .next (s.setClip ⟨xh, yh, xl, yl, field, odd⟩)

/-- `SET_PRIM_DEPTH` (R559): `gs.primitive_z <- (z & 0x7FFF) << 16`. -/
def execSetPrimDepth (z dz : BitVec 16) (s : State) : Result :=
  .next (s.setMisc { s.gs.misc with primitiveZ := (z &&& 0x7FFF) ++ 0#16, primitiveDeltaZ := dz })

end Sys2Proof.Machine
end

