-- ==== Sys2Proof/Machine/EdgeWalk.lean ====
section
/-! DEFINITION. The edge walker and span generator: `EDGEWALK` (`40_edge_walker.md` rules R174 to R192). -/

namespace Sys2Proof

/-! ### Coefficient intake (R174) -/

/-- A coefficient of a group that is present iff `p`; an absent group reads as 0 (R123). -/
def Coeff.masked (p : Bool) (c : Coeff) : Coeff := if p then c else ⟨0, 0, 0, 0⟩

/-- One of the four coefficients of every attribute, with absent groups read as 0 (R123, R174). -/
def TriCmd.attrs (c : TriCmd) (f : Coeff → Word) : Attrs :=
  ⟨f (c.r.masked c.shade), f (c.g.masked c.shade), f (c.b.masked c.shade), f (c.a.masked c.shade),
   f (c.s.masked c.texture), f (c.t.masked c.texture), f (c.w.masked c.texture), f (c.z.masked c.zbuf)⟩

namespace Machine

/-- `sext_28` of an edge X word (R124). -/
def sext28 (v : Word) : Word := (v.setWidth 28).signExtend 32

/-- `sext_30` of an edge slope word (R124). -/
def sext30 (v : Word) : Word := (v.setWidth 30).signExtend 32

/-- The increment of an edge per quarter-scanline: `(slope >> 2) & ~1` (R180). -/
def edgeInc (v : Word) : Word := (sext30 v).sshiftRight 2 &&& ~~~1#32

/-- An edge position: `sext_28` with the low bit cleared (R174, R180). -/
def edgePos (v : Word) : Word := sext28 v &&& ~~~1#32

/-! ### Slope registers (R176, R178) -/

/-- `normalize_dzpix(sum)` (R178). -/
def normalizeDzpix (sum : BitVec 16) : BitVec 16 :=
  if sum &&& 0xC000 ≠ 0 then 0x8000
  else if sum = 0 then 1
  else if sum = 1 then 3
  else BitVec.ofNat 16 (2 * topBit 14 sum.toNat)

/-- The magnitude `m(v)` (R178). -/
def slopeMagnitude (v : BitVec 16) : BitVec 16 := if v.getLsbD 15 then ~~~v &&& 0x7FFF else v

/-- `gs.spans_dzpix` (R178). -/
def spansDzpix (dzdx dzdy : Word) : BitVec 16 :=
  normalizeDzpix (slopeMagnitude (dzdy.extractLsb' 16 16) + slopeMagnitude (dzdx.extractLsb' 16 16))

/-- `sext_13(v >> 14)` as a 13-bit field (R176). -/
def slope13 (v : Word) : BitVec 13 := (v.sshiftRight 14).setWidth 13

/-- `sext_22(v >> 10)` as a 22-bit field (R176). -/
def slope22 (v : Word) : BitVec 22 := (v.sshiftRight 10).setWidth 22

/-- The slope registers of a command (R176, R178). -/
def slopesOf (c : TriCmd) : Slopes :=
  let dx := c.attrs Coeff.dx
  let dy := c.attrs Coeff.dy
  { dr := dx.r &&& 0xFFFFFFE0, dg := dx.g &&& 0xFFFFFFE0, db := dx.b &&& 0xFFFFFFE0, da := dx.a &&& 0xFFFFFFE0
    ds := dx.s &&& 0xFFFFFFE0, dt := dx.t &&& 0xFFFFFFE0, dw := dx.w &&& 0xFFFFFFE0, dz := dx.z
    drdy := slope13 dy.r, dgdy := slope13 dy.g, dbdy := slope13 dy.b, dady := slope13 dy.a, dzdy := slope22 dy.z
    cdr := slope13 (dx.r &&& 0xFFFFFFE0), cdg := slope13 (dx.g &&& 0xFFFFFFE0)
    cdb := slope13 (dx.b &&& 0xFFFFFFE0), cda := slope13 (dx.a &&& 0xFFFFFFE0), cdz := slope22 dx.z
    dsdy := dy.s &&& 0xFFFF8000, dtdy := dy.t &&& 0xFFFF8000, dwdy := dy.w &&& 0xFFFF8000
    dzpix := spansDzpix dx.z dy.z }

/-! ### Crossings (R182, R184) -/

/-- What `CROSS` returns: the 14-bit crossing and the two flags. -/
structure Crossing where
  xsc : BitVec 14
  isOver : Bool
  isUnder : Bool
deriving DecidableEq, Repr

/-- `CROSS(xv)` with `clipxhshift`, `clipxlshift` (R182). -/
def cross (clipxh clipxl : BitVec 14) (xv : Word) : Crossing :=
  let sticky : Word := if xv.sshiftRight 1 &&& 0x1FFF ≠ 0 then 1 else 0
  let low : BitVec 14 := ((xv.sshiftRight 13 &&& 0x1FFE) ||| sticky).setWidth 14
  let isUnder := xv.getLsbD 27 || (decide (low < clipxh) && !xv.getLsbD 26)
  let x1 : BitVec 14 := if isUnder then clipxh else ((xv.sshiftRight 13 &&& 0x3FFE) ||| sticky).setWidth 14
  let isOver := x1.getLsbD 13 || decide (clipxl ≤ x1 &&& 0x1FFF)
  ⟨if isOver then clipxl else x1, isOver, isUnder⟩

/-- `KEY(xv)` (R184): unsigned order on bits 27:14 with the sign bit inverted. -/
def edgeKey (xv : Word) : Word := (xv ^^^ 0x8000000) &&& (0x3FFF <<< 14)

/-- `(xsc >> 3) & 0xFFF` (R182). -/
def Crossing.pixel (x : Crossing) : BitVec 12 := ((x.xsc >>> 3) &&& 0xFFF).setWidth 12

/-! ### The walk (R180) -/

/-- What the set-up of R180 fixes for one command. -/
structure WalkSetup where
  flip : Bool
  ym : Int
  xl : Word
  incL : Word
  incRight : Word
  dAdiff : Attrs
  dAdxh : Attrs
  dAde : Attrs
  ldflag : Nat
  ycur : Int
  ylfar : Int
  yllimit : Int
  yhlimit : Int
  yhclose : Int
  clipxh : BitVec 14
  clipxl : BitVec 14
  clearNext : Bool
deriving DecidableEq, Repr

/-- What the walk carries from one quarter-scanline to the next. -/
structure Walk where
  xleft : Word
  incLeft : Word
  xright : Word
  attrs : Attrs
  maxxmx : BitVec 12
  minxhx : BitVec 12
  minxmx : BitVec 12
  maxxhx : BitVec 12
  st : State
deriving DecidableEq, Repr

/-- `dAdiff` of one attribute when `do_offset` (R180). -/
def attrDiff (de dy : Word) : Word :=
  let deh := de &&& 0xFFFFFE00
  let dyh := dy &&& 0xFFFFFE00
  deh - deh.sshiftRight 2 - dyh + dyh.sshiftRight 2

/-- Bits 13 and 12 of a y coefficient say it is negative or beyond the scissor's range (R180). -/
def yLowLimit (yl : BitVec 14) (clipYl : BitVec 12) : Int :=
  let own := if yl.getLsbD 13 then true else if yl.getLsbD 12 then false else decide (yl.setWidth 12 < clipYl)
  if own then yl.toInt else clipYl.toNat

/-- `yhlimit` (R180). -/
def yHighLimit (yh : BitVec 14) (clipYh : BitVec 12) : Int :=
  let own := if yh.getLsbD 13 then false else if yh.getLsbD 12 then true else decide ((clipYh.toNat : Int) ≤ yh.toInt)
  if own then yh.toInt else clipYh.toNat

/-- Clear the two low bits of an integer: `y & ~3`. -/
def quarterFloor (y : Int) : Int := y / 4 * 4

/-- The set-up of R180, before the span-buffer write that `clearNext` announces. -/
def walkSetup (c : TriCmd) (s : State) : WalkSetup :=
  let sign := c.dxhdy.getLsbD 31
  let doOffset := !(sign ^^ c.flip)
  let yllimit := yLowLimit c.yl s.gs.clip.yl
  let far := quarterFloor yllimit + 3
  let extend := decide (far / 4 < c.yl.toInt / 4)
  let yhlimit := yHighLimit c.yh s.gs.clip.yh
  { flip := c.flip
    ym := c.ym.toInt
    xl := edgePos c.xl
    incL := edgeInc c.dxldy
    incRight := edgeInc c.dxhdy
    dAdiff := if doOffset then (c.attrs Coeff.de).zip attrDiff (c.attrs Coeff.dy) else zeroAttrs
    dAdxh := if Om.cycleType s.gs.om != 2 then (c.attrs Coeff.dx).map (fun v => v.sshiftRight 8 &&& ~~~1#32)
      else zeroAttrs
    dAde := c.attrs Coeff.de
    ldflag := if sign ^^ c.flip then 0 else 3
    ycur := quarterFloor c.yh.toInt
    ylfar := if extend then far + 4 else far
    yllimit := yllimit
    yhlimit := yhlimit
    yhclose := quarterFloor yhlimit
    clipxh := s.gs.clip.xh.setWidth 14 <<< 1
    clipxl := s.gs.clip.xl.setWidth 14 <<< 1
    clearNext := !extend && decide (0 ≤ yllimit / 4) && decide (yllimit / 4 < 1023) }

/-- `ADJUST_ATTR(j)` (R186): the attributes at the integer x of the major edge. -/
def adjustAttrs (p : WalkSetup) (xright : Word) (a : Attrs) : Attrs :=
  let xfrac : Word := (xright.extractLsb' 8 8).setWidth 32
  let base := (a.map (fun v => v &&& 0xFFFFFE00)).add p.dAdiff
  (base.zip (fun v d => (v - xfrac * d) &&& 0xFFFFFC00) p.dAdxh)

/-- `VALID(j)` (R190). -/
def validLine (s : State) (j : Int) : Bool :=
  !s.gs.flags.allinval && !s.gs.flags.allover && !s.gs.flags.allunder
    && (!s.gs.clip.scfield || !(s.gs.clip.sckeepodd ^^ decide (j % 2 = 1)))
    && decide (j % (s.gs.misc.stride : Int) = (s.gs.misc.workerOffset : Int))

/-- At `spix == 0` the aggregates start over (R180). -/
def Walk.startLine (p : WalkSetup) (w : Walk) : Walk :=
  let st := w.st.setFlags { w.st.gs.flags with allover := true, allunder := true, allinval := true }
  if p.flip then { w with maxxmx := 0, minxhx := 0xFFF, st } else { w with minxmx := 0xFFF, maxxhx := 0, st }

/-- The crossings, flags and extremes of one stored sub-scanline (R180). -/
def Walk.subScanline (p : WalkSetup) (k j : Int) (spix : Fin 4) (w : Walk) : Walk :=
  let s := w.st
  let right := cross p.clipxh p.clipxl w.xright
  let left := cross p.clipxh p.clipxl w.xleft
  let curcross := if p.flip then decide (edgeKey w.xleft < edgeKey w.xright)
    else decide (edgeKey w.xright < edgeKey w.xleft)
  let invaly := decide (k < p.yhlimit) || decide (p.yllimit ≤ k) || curcross
  let f := s.gs.flags
  let sp := s.spanAt j
  let s := s.putSpan j { sp with
    majorx := sp.majorx.set spix (right.xsc.setWidth 13)
    minorx := sp.minorx.set spix (left.xsc.setWidth 13)
    invalyscan := sp.invalyscan.set spix invaly }
  let st := s.setFlags { f with
    allover := f.allover && right.isOver && left.isOver
    allunder := f.allunder && right.isUnder && left.isUnder
    allinval := f.allinval && invaly }
  if invaly then { w with st }
  else if p.flip then
    { w with
      maxxmx := if w.maxxmx < left.pixel then left.pixel else w.maxxmx
      minxhx := if right.pixel < w.minxhx then right.pixel else w.minxhx
      st }
  else
    { w with
      minxmx := if left.pixel < w.minxmx then left.pixel else w.minxmx
      maxxhx := if w.maxxhx < right.pixel then right.pixel else w.maxxhx
      st }

/-- At `spix == ldflag`: `unscrx` and `ADJUST_ATTR(j)` (R180, R186). -/
def Walk.loadAttrs (p : WalkSetup) (j : Int) (w : Walk) : Walk :=
  let sp := w.st.spanAt j
  let sp' := { sp with unscrx := w.xright.extractLsb' 16 12, attrs := adjustAttrs p w.xright w.attrs }
  { w with st := w.st.putSpan j sp' }

/-- `FINALISE(j)` (R188), "only at sub-position 3". -/
def Walk.finalise (p : WalkSetup) (j : Int) (w : Walk) : Walk :=
  let sp := w.st.spanAt j
  let valid := validLine w.st j
  let sp' := if p.flip then { sp with lx := w.maxxmx, rx := w.minxhx, validline := valid }
    else { sp with lx := w.minxmx, rx := w.maxxhx, validline := valid }
  { w with st := w.st.putSpan j sp' }

/-- The stored part of an iteration, run when `k >= yhclose` (R180). -/
def Walk.store (p : WalkSetup) (k : Int) (spix : Fin 4) (w : Walk) : Walk :=
  let j := k / 4
  let w := if spix = 0 then w.startLine p else w
  let w := w.subScanline p k j spix
  let w := if spix.val = p.ldflag then w.loadAttrs p j else w
  if spix = 3 then w.finalise p j else w

/-- `k & 3`. -/
def spixOf (k : Int) : Fin 4 := ⟨(k % 4).toNat % 4, Nat.mod_lt _ (by decide)⟩

/-- One iteration of the walk (R180, R192). -/
def walkStep (p : WalkSetup) (k : Int) (w : Walk) : Walk :=
  let w := { w with st := w.st.setSeq { w.st.gs.seq with k := BitVec.ofInt 14 k } }
  let w := if k = p.ym then { w with xleft := p.xl, incLeft := p.incL } else w
  let w := if p.yhclose ≤ k then w.store p k (spixOf k) else w
  let attrs := if spixOf k = 3 then w.attrs.add p.dAde else w.attrs
  { w with attrs, xleft := w.xleft + w.incLeft, xright := w.xright + p.incRight }

/-- The state after the intake of a command (R174, R176, R178). -/
def State.intake (s : State) (c : TriCmd) : State :=
  ((s.setFlags { s.gs.flags with flip := c.flip }).setMisc { s.gs.misc with maxLevel := c.level }).setSlopes (slopesOf c)

/-- The walk at its start (R180). -/
def walkStart (c : TriCmd) (p : WalkSetup) (s : State) : Walk where
  xleft := edgePos c.xm
  incLeft := edgeInc c.dxmdy
  xright := edgePos c.xh
  attrs := c.attrs Coeff.base
  maxxmx := 0
  minxhx := 0
  minxmx := 0
  maxxhx := 0
  st := if p.clearNext then
      s.putSpan (p.yllimit / 4 + 1) { s.spanAt (p.yllimit / 4 + 1) with validline := false }
    else s

/-- `EDGEWALK(cmd)` (R174 to R192). -/
def State.edgewalk (s : State) (c : TriCmd) : State :=
  let s := s.intake c
  let p := walkSetup c s
  (forUp (walkStep p) (count p.ycur p.ylfar) p.ycur (walkStart c p s)).st

/-- `yhlimit >> 2` and `yllimit >> 2`, the scanlines `RENDER_SPANS` gets (R172, R194); the second may be negative. -/
def renderLimits (c : TriCmd) (s : State) : BitVec 12 × BitVec 12 :=
  (BitVec.ofInt 12 (yHighLimit c.yh s.gs.clip.yh / 4), BitVec.ofInt 12 (yLowLimit c.yl s.gs.clip.yl / 4))

/-- The meaning of `EDGEWALK`. -/
def execEdgewalk (c : TriCmd) (s : State) : Result :=
  .next ((s.edgewalk c).setRet (.limits (renderLimits c s).1 (renderLimits c s).2))

end Machine

end Sys2Proof
end

