-- ==== Sys2Proof/Machine/Dither.lean ====
section
/-! DEFINITION. The pseudo-random generator and the dither unit (`47_coverage_dither.md` rules R470 to R476). -/

namespace Sys2Proof.Machine

/-- The next state of the generator (R470): "linear-congruential", modulo 2^32. -/
def nextSeed (seed : BitVec 32) : BitVec 32 := seed * 0x343FD + 0x269EC3

/-- The 15 bits a generator state delivers (R470). -/
def seedOut (seed : BitVec 32) : BitVec 15 := seed.extractLsb' 16 15

/-- `IRAND()` (R470): the machine after the call, and the value. -/
def State.irand (s : State) : State × BitVec 15 :=
  (s.setHid { s.gs.hid with iseed := nextSeed s.gs.hid.iseed }, seedOut (nextSeed s.gs.hid.iseed))

/-- `gs.noise <- ((IRAND() & 7) << 6) | 0x20` (R474). -/
def State.drawNoise (s : State) : State :=
  let (s, v) := s.irand
  s.setSca { s.gs.sca with noise := (v.setWidth 3 : BitVec 3) ++ 0x20#6 }

/-- The matrix index of a pixel (R471). -/
def ditherIndex (x y : BitVec 12) : Fin 16 := ⟨(y.toNat % 4) * 4 + x.toNat % 4, by omega⟩

/-- The alpha dither of a mode's low two bits: the pattern, its inverse, the noise, or none (R472). -/
def alphaDither (sel : Nat) (pattern noise : BitVec 3) : BitVec 3 :=
  match sel with
  | 0 => pattern
  | 1 => ~~~pattern
  | 2 => noise
  | _ => 0

/-- The arm of `DITHER_NOISE` that `gs.rgb_alpha_dither` selects (R146, R472), after the noise is drawn. -/
def State.ditherArm (s : State) (d : Fin 16) : State × BitVec 15 × BitVec 3 :=
  let n : BitVec 3 := s.gs.sca.noise.extractLsb' 6 3
  let mode := s.gs.der.rgbAlphaDither.toNat
  match mode / 4 with
  | 0 => (s, (magic[d]).setWidth 15, alphaDither (mode % 4) magic[d] n)
  | 1 => (s, (bayer[d]).setWidth 15, alphaDither (mode % 4) bayer[d] n)
  | 2 => (s.irand.1, s.irand.2, alphaDither (mode % 4) magic[d] n)
  | _ => (s, 7, alphaDither (mode % 4) bayer[d] n)

/-- `DITHER_NOISE(x, y, cdith, adith)` (R472): the machine after it, and the new `(cdith, adith)`. -/
def State.ditherNoise (s : State) (x y : BitVec 12) (cdith : BitVec 15) (adith : BitVec 3) :
    State × BitVec 15 × BitVec 3 :=
  if s.gs.der.ditherLevel = 2 then (s, cdith, adith)
  else
    let s := if s.gs.der.ditherLevel = 0 then s.drawNoise else s
    s.ditherArm (ditherIndex x (if s.gs.clip.scfield then y >>> 1 else y))

/-- One channel of `RGB_DITHER` (R476): rounded up to the next multiple of 8, saturating at 255. -/
def ditherChannel (c : BitVec 8) (comp : Nat) : BitVec 8 :=
  if comp < c.toNat % 8 then (if 247 < c.toNat then 255 else (c &&& 0xF8) + 8) else c

/-- `RGB_DITHER(r, g, b, dith)` (R476). -/
def State.rgbDither (s : State) (r g b : BitVec 8) (dith : BitVec 15) : Rgb 8 :=
  let d := dith.toNat
  if Om.rgbDitherSel s.gs.om != 2 then ⟨ditherChannel r d, ditherChannel g d, ditherChannel b d⟩
  else ⟨ditherChannel r (d % 8), ditherChannel g (d / 8 % 8), ditherChannel b (d / 64 % 8)⟩

/-- The meaning of `IRAND`. -/
def execIrand (s : State) : Result := .next (s.irand.1.setRet (.random s.irand.2))

/-- The meaning of `DITHER_NOISE`. -/
def execDitherNoise (x y : BitVec 12) (cdith : BitVec 15) (adith : BitVec 3) (s : State) : Result :=
  let (s', c, a) := s.ditherNoise x y cdith adith
  .next (s'.setRet (.dither c a))

/-- The meaning of `RGB_DITHER`. -/
def execRgbDither (r g b : BitVec 8) (dith : BitVec 15) (s : State) : Result :=
  .next (s.setRet (.rgb (s.rgbDither r g b dith)))

end Sys2Proof.Machine
end

