-- ==== Sys2Proof/Machine/Blender.lean ====
section
/-! DEFINITION. The alpha blender (`45_blender.md` rules R390 to R406). -/

namespace Sys2Proof.Machine

/-! ### The equations (R396, R398) -/

/-- The two 5-bit factors of a blend cycle: `(1B >> 3, 2B >> 3)`, reduced by the shifters when 2B is memory alpha. -/
def State.blendFactors (s : State) (second : Bool) (shifta shiftb : BitVec 3) : Nat × Nat :=
  let b1 := (blend1b s second).toNat / 8
  let b2 := (blend2b s second).toNat / 8
  if (blendCodes s.gs.om second).m2b = 1 then ((b1 >>> shifta.toNat) &&& 0x3C, (b2 >>> shiftb.toNat) ||| 3) else (b1, b2)

/-- `(1A).ch * b1 + (2A).ch * (b2 + 1)`. -/
def blendSum (p m : BitVec 9) (b : Nat × Nat) : Nat := p.toNat * b.1 + m.toNat * (b.2 + 1)

/-- One channel of `BLEND_EQ` (R396). The table index keeps the low 15 bits, DEDUCED, log entry 20, safe. -/
def blendChannel (forceBlend : Bool) (b : Nat × Nat) (p m : BitVec 9) : BitVec 8 :=
  let bl := blendSum p m b
  if forceBlend then BitVec.ofNat 8 (bl / 32)
  else bldiv (BitVec.ofNat 15 ((b.1 / 4 * 4 + b.2 / 4 * 4 + 4) * 512 ||| (bl / 4 % 2048)))

/-- `BLEND_EQ(c)` (R396): `second` is cycle 1. -/
def State.blendEq (s : State) (second : Bool) : Rgb 8 :=
  let b := s.blendFactors second s.gs.hid.blshifta s.gs.hid.blshiftb
  let p := blend1a s second
  let m := blend2a s second
  let f := blendChannel (Om.forceBlend s.gs.om) b
  ⟨f p.r m.r, f p.g m.g, f p.b m.b⟩

/-- `BLEND_EQ_C0_2` (R398): the past shifters, never a division. -/
def State.blendEqC02 (s : State) : Rgb 8 :=
  let b := s.blendFactors false s.gs.hid.pastblshifta s.gs.hid.pastblshiftb
  let p := blend1a s false
  let m := blend2a s false
  let f := fun (p m : BitVec 9) => BitVec.ofNat 8 (blendSum p m b / 32)
  ⟨f p.r m.r, f p.g m.g, f p.b m.b⟩

/-! ### Alpha compare (R402) -/

/-- `ALPHA_COMPARE(alpha)` (R402): the machine after it (`IRAND` is called only when both enables are set) and the answer. -/
def State.alphaCompare (s : State) (alpha : BitVec 9) : State × Bool :=
  if !Om.alphaCompareEn s.gs.om then (s, true)
  else if Om.ditherAlphaEn s.gs.om then (s.irand.1, decide (s.irand.2.toNat % 256 ≤ alpha.toNat))
  else (s, decide (s.gs.col.blend.a.toNat ≤ alpha.toNat))

/-! ### The passes (R404, R406) -/

/-- What a blender pass leaves and returns: whether the pixel is to be written, and its colour. -/
structure Blend where
  st : State
  written : Bool
  rgb : Rgb 8
deriving DecidableEq, Repr

/-- "coverage gating" (R404). -/
def State.coverageGate (s : State) (o : BlendOperands) : Bool :=
  if Om.antialiasEn s.gs.om then decide (o.cvg ≠ 0) else o.cvbit

/-- `gs.inv_pixel_a <- ~(1B_c) & 0xFF`. -/
def State.setInvPixel (s : State) (second : Bool) : State :=
  s.setCol { s.gs.col with invPixelA := ~~~((blend1b s second).setWidth 8) }

/-- A colour input as three 8-bit channels. -/
def rgb8 (c : Rgb 9) : Rgb 8 := ⟨c.r.setWidth 8, c.g.setWidth 8, c.b.setWidth 8⟩

/-- The blend of the last cycle of a pixel: input 2A, input 1A ("blending bypassed") or the equation (R404, R406). -/
def State.blendLast (s : State) (second partialReject : Bool) (o : BlendOperands) : State × Rgb 8 :=
  if !Om.colorOnCvg s.gs.om || o.prewrap then
    if !o.blendEn || (partialReject && decide (0xFF ≤ s.gs.col.pixel.a.toNat)) then (s, rgb8 (blend1a s second))
    else
      let s := s.setInvPixel second
      (s, s.blendEq second)
  else (s, rgb8 (blend2a s second))

/-- "RGB dithering post-blend" and the answer (R404, R406). -/
def blendDone (x : State × Rgb 8) (cdith : BitVec 15) : Blend :=
  ⟨x.1, true, if Om.rgbDitherSel x.1.gs.om != 3 then x.1.rgbDither x.2.r x.2.g x.2.b cdith else x.2⟩

/-- `BLEND_1CYCLE` (R404). The colour of a pixel that is not written is not read; zeros stand for it. -/
def State.blend1cycle (s : State) (o : BlendOperands) : Blend :=
  let c := s.alphaCompare s.gs.col.pixel.a
  let s := c.1
  if c.2 && s.coverageGate o then blendDone (s.blendLast false s.gs.der.partialreject1cycle o) o.cdith
  else ⟨s, false, zeroRgb 8⟩

/-- `gs.memory <- gs.pre_memory`. -/
def State.restoreMemory (s : State) : State := s.setCol { s.gs.col with memory := s.gs.col.preMemory }

/-- The first blend cycle of `BLEND_2CYCLE` (R406): it "reads gs.memory = the previous pixel's framebuffer colour". -/
def State.blendFirst (s : State) : State :=
  let s := s.setInvPixel false
  let c := s.blendEqC02
  s.setCol { s.gs.col with
    memory := s.gs.col.preMemory
    blendedPixel := ⟨c.r, c.g, c.b, s.gs.col.pixel.a⟩ }

/-- `BLEND_2CYCLE` (R406). -/
def State.blend2cycle (s : State) (o : BlendOperands) (acalpha : BitVec 9) : Blend :=
  let c := s.alphaCompare acalpha
  let s := c.1
  if c.2 && s.coverageGate o then
    blendDone (((s.setCycle 0).blendFirst.setCycle 1).blendLast true s.gs.der.partialreject2cycle o) o.cdith
  else ⟨s.restoreMemory, false, zeroRgb 8⟩

/-! ### Meanings -/

/-- The meaning of `BLEND_EQ`. -/
def execBlendEq (c : Bool) (s : State) : Result := .next (s.setRet (.rgb (s.blendEq c)))

/-- The meaning of `BLEND_EQ_C0_2`. -/
def execBlendEqC02 (s : State) : Result := .next (s.setRet (.rgb s.blendEqC02))

/-- The meaning of `ALPHA_COMPARE`. -/
def execAlphaCompare (alpha : BitVec 9) (s : State) : Result :=
  .next ((s.alphaCompare alpha).1.setRet (.bool (s.alphaCompare alpha).2))

/-- The meaning of `BLEND_1CYCLE`. -/
def execBlend1cycle (o : BlendOperands) (s : State) : Result :=
  let b := s.blend1cycle o
  .next (b.st.setRet (.blended b.written b.rgb))

/-- The meaning of `BLEND_2CYCLE`. -/
def execBlend2cycle (o : BlendOperands) (acalpha : BitVec 9) (s : State) : Result :=
  let b := s.blend2cycle o acalpha
  .next (b.st.setRet (.blended b.written b.rgb))

end Sys2Proof.Machine
end

