-- ==== Sys2Proof/Machine/Combiner.lean ====
section
/-! DEFINITION. The colour combiner (`44_combiner.md` rules R350 to R366). -/

namespace Sys2Proof.Machine

/-! ### The equations (R353, R356, R357) -/

/-- `COMBINE_EQ_RGB` for one channel (R356): A, B and D go through `ext9`, C is `sext_9` (R353). -/
def combineEqRgb (a b c d : BitVec 9) (cZero : Bool) : BitVec 17 :=
  if cZero then BitVec.ofInt 17 (ext9 d * 256 + 0x80)
  else BitVec.ofInt 17 ((ext9 a - ext9 b) * c.toInt + ext9 d * 256 + 0x80)

/-- `COMBINE_EQ_ALPHA` (R357). -/
def combineEqAlpha (a b c d : BitVec 9) (cZero : Bool) : BitVec 9 :=
  if cZero then BitVec.ofInt 9 (ext9 d)
  else BitVec.ofInt 9 (((ext9 a - ext9 b) * c.toInt + ext9 d * 256 + 0x80) >>> 8)

/-- The combined colour of one cycle, from the sources its selectors name. -/
def State.combineWith (s : State) (x : CombinerSources) : CombinedColor :=
  let a := x.aRgb.rgb s
  let b := x.bRgb.rgb s
  let c := x.cRgb.rgb s
  let d := x.dRgb.rgb s
  let z := decide (x.cRgb = .zero)
  ⟨combineEqRgb a.r b.r c.r d.r z, combineEqRgb a.g b.g c.g d.g z, combineEqRgb a.b b.b c.b d.b z,
   combineEqAlpha (x.aA.alpha s) (x.bA.alpha s) (x.cA.alpha s) (x.dA.alpha s) (decide (x.cA = .zero))⟩

/-- Write `gs.combined`. -/
def State.setCombined (s : State) (c : CombinedColor) : State := s.setCol { s.gs.col with combined := c }

/-! ### Chroma key (R366) -/

/-- One channel of `CHROMA_KEY`. -/
def keyChannel (width : BitVec 12) (col : BitVec 17) : Int :=
  let k := col.toInt
  let k := if 0 < k then if k % 16 = 8 then -k + 0x10 else -k else k
  width.toNat * 16 + k

/-- The smaller of two integers. -/
def minInt (a b : Int) : Int := if a < b then a else b

/-- `CHROMA_KEY(col)` (R366). -/
def State.chromaKey (s : State) (col : Rgb 17) : BitVec 8 :=
  let w := s.gs.col.keyWidth
  BitVec.ofInt 8 (clampInt (minInt (minInt (keyChannel w.r col.r) (keyChannel w.g col.g)) (keyChannel w.b col.b)) 0 0xFF)

/-- The colour channels of `gs.combined`. -/
def State.combinedRgb (s : State) : Rgb 17 := ⟨s.gs.col.combined.r, s.gs.col.combined.g, s.gs.col.combined.b⟩

/-! ### End of a cycle (R362, R364) -/

/-- `clamp9` of an alpha, with "exactly 0xFF maps to 0x100" (R350, R364). -/
def quirkAlpha (a : BitVec 9) : BitVec 9 := if clamp9 a = 0xFF then 0x100 else (clamp9 a).setWidth 9

/-- An alpha plus its dither; bit 8 of the sum gives 0xFF (R364). -/
def ditherAlpha (a : BitVec 9) (adith : BitVec 3) : BitVec 9 :=
  let v := a + adith.setWidth 9
  if v.getLsbD 8 then 0xFF else v

/-- `(a * cvg + 4) >> 3` (R362, R364). -/
def alphaTimesCvg (a : BitVec 9) (cvg : BitVec 4) : Nat := (a.toNat * cvg.toNat + 4) / 8

/-- A value saturated at 0xFF. -/
def saturate255 (v : Nat) : BitVec 9 := if 0xFF < v then 0xFF else BitVec.ofNat 9 v

/-- The alpha that R362 and R364 derive from the clamped combined alpha: `pre` with its dither, the key, or coverage. -/
def State.finalAlpha (s : State) (pre : BitVec 9) (adith : BitVec 3) (cvg : BitVec 4) (temp : Nat) (key : BitVec 8) :
    BitVec 9 :=
  if !Om.alphaCvgSelect s.gs.om then
    if !Om.keyEn s.gs.om then ditherAlpha pre adith else key.setWidth 9
  else saturate255 (if Om.cvgTimesAlpha s.gs.om then temp else cvg.toNat * 32)

/-- `gs.combined.c <- gs.combined.c >> 8` on the colour channels (R362, R364). -/
def shiftCombined (c : CombinedColor) : CombinedColor := { c with r := c.r >>> 8, g := c.g >>> 8, b := c.b >>> 8 }

/-- A 17-bit channel after `>> 8`, through `clamp9` (R364). -/
def clampChannel (v : BitVec 17) : BitVec 8 := clamp9 ((v >>> 8).setWidth 9)

/-- `FINISH_CYCLE(adith, &cvg, bypass)` (R364): the machine after it, and the coverage count. -/
def State.finishCycle (s : State) (adith : BitVec 3) (cvg : BitVec 4) (bypass : Rgb 9) : State × BitVec 4 :=
  let comb := s.gs.col.combined
  let pre := quirkAlpha comb.a
  let key := s.chromaKey s.combinedRgb
  let rgb : Rgb 8 :=
    if !Om.keyEn s.gs.om then ⟨clampChannel comb.r, clampChannel comb.g, clampChannel comb.b⟩
    else ⟨clamp9 bypass.r, clamp9 bypass.g, clamp9 bypass.b⟩
  let temp := alphaTimesCvg pre cvg
  let cvg' : BitVec 4 := if Om.cvgTimesAlpha s.gs.om then BitVec.ofNat 4 (temp / 32) else cvg
  let shadeA := (ditherAlpha (s.gs.col.shade.a.setWidth 9) adith).setWidth 8
  (s.setCol { s.gs.col with
    combined := shiftCombined comb
    pixel := ⟨rgb.r, rgb.g, rgb.b, s.finalAlpha pre adith cvg' temp key⟩
    shade := { s.gs.col.shade with a := shadeA } }, cvg')

/-! ### The cycles (R360, R362) -/

/-- The combiner pass with the cycle-1 selectors that ends a pixel, in 1-cycle and in 2-cycle mode (R360, R362). -/
def State.combineLast (s : State) (adith : BitVec 3) (cvg : BitVec 4) : State × BitVec 4 :=
  let x := combinerSources1 s.gs.cc
  (s.setCombined (s.combineWith x)).finishCycle adith cvg (x.aRgb.rgb s)

/-- `COMBINE_1CYCLE(adith, &cvg)` (R360). -/
def State.combine1cycle (s : State) (adith : BitVec 3) (cvg : BitVec 4) : State × BitVec 4 := s.combineLast adith cvg

/-- `acalpha`, the alpha the 2-cycle alpha compare uses, after the cycle-0 equations (R362). -/
def State.acalpha (s : State) (adith : BitVec 3) (cvg : BitVec 4) : BitVec 9 :=
  if Om.alphaCompareEn s.gs.om then
    let pre := quirkAlpha s.gs.col.combined.a
    s.finalAlpha pre adith cvg (alphaTimesCvg pre cvg) (s.chromaKey s.combinedRgb)
  else 0

/-- The register moves before cycle 1 (R362): "what "texel0"/"texel1" mean in cycle 1". -/
def State.betweenCycles (s : State) : State := s.setCol { s.gs.col with
  combined := shiftCombined s.gs.col.combined
  texel0 := s.gs.col.texel1
  texel1 := s.gs.col.nexttexel }

/-- What `COMBINE_2CYCLE` leaves and returns. -/
structure Combine2 where
  st : State
  acalpha : BitVec 9
  cvg : BitVec 4
deriving DecidableEq, Repr

/-- `COMBINE_2CYCLE(adith, &cvg)` (R362). -/
def State.combine2cycle (s : State) (adith : BitVec 3) (cvg : BitVec 4) : Combine2 :=
  let s := s.setCycle 0
  let s := s.setCombined (s.combineWith (combinerSources0 s.gs.cc))
  let ac := s.acalpha adith cvg
  let r := (s.betweenCycles.setCycle 1).combineLast adith cvg
  ⟨r.1, ac, r.2⟩

/-! ### Meanings -/

/-- The meaning of `COMBINE_EQ_RGB`. -/
def execCombineEqRgb (a b c d : BitVec 9) (cZero : Bool) (s : State) : Result :=
  .next (s.setRet (.eqRgb (combineEqRgb a b c d cZero)))

/-- The meaning of `COMBINE_EQ_ALPHA`. -/
def execCombineEqAlpha (a b c d : BitVec 9) (cZero : Bool) (s : State) : Result :=
  .next (s.setRet (.eqAlpha (combineEqAlpha a b c d cZero)))

/-- The meaning of `COMBINE_1CYCLE`. -/
def execCombine1cycle (adith : BitVec 3) (cvg : BitVec 4) (s : State) : Result :=
  .next ((s.combine1cycle adith cvg).1.setRet (.cvg (s.combine1cycle adith cvg).2))

/-- The meaning of `COMBINE_2CYCLE`. -/
def execCombine2cycle (adith : BitVec 3) (cvg : BitVec 4) (s : State) : Result :=
  let r := s.combine2cycle adith cvg
  .next (r.st.setRet (.combine2 r.acalpha r.cvg))

/-- The meaning of `FINISH_CYCLE`. -/
def execFinishCycle (adith : BitVec 3) (cvg : BitVec 4) (bypass : Rgb 9) (s : State) : Result :=
  .next ((s.finishCycle adith cvg bypass).1.setRet (.cvg (s.finishCycle adith cvg bypass).2))

/-- The meaning of `CHROMA_KEY`. -/
def execChromaKey (col : Rgb 17) (s : State) : Result := .next (s.setRet (.key (s.chromaKey col)))

end Sys2Proof.Machine
end

