-- ==== Sys2Proof/Machine/Coverage.lean ====
section
/-! DEFINITION. The coverage engine (`47_coverage_dither.md` rules R450 to R462). -/

namespace Sys2Proof.Machine

/-- `LEFTHEX(x, fmask)`: columns at or right of the crossing (R453). -/
def leftHex (x : BitVec 13) (fmask : Byte) : Byte := (0x0F#8 >>> ((x.toNat % 8 + 1) / 2)) &&& fmask

/-- `RIGHTHEX(x, fmask)`: columns left of the crossing (R453). -/
def rightHex (x : BitVec 13) (fmask : Byte) : Byte := (0xF0#8 >>> ((x.toNat % 8 + 1) / 2)) &&& fmask

/-- The column mask of a sub-scanline: 0xA for even `k`, 0x5 for odd (R454). -/
def columnMask (k : Fin 4) : Byte := 0xA#8 >>> (k.val % 2)

/-- Sub-scanlines 0 and 1 are in the high nibble of a mask (R452, R454). -/
def maskShift (k : Fin 4) : Nat := if k.val < 2 then 4 else 0

/-- `for p = lo to hi: cvgbuf[p] <- f(cvgbuf[p])`. -/
def State.mapCvg (s : State) (f : Byte → Byte) (lo hi : Int) : State :=
  forUp (fun p s => s.putCvg p.toNat (f (s.cvgAt p.toNat))) (count lo hi) lo s

/-- One sub-scanline of `CVG_BUILD` (R454), between `pstart` and `pend`, with its left and right crossing. -/
def State.cvgSub (s : State) (pstart pend : Int) (k : Fin 4) (inval : Bool) (left right : BitVec 13) : State :=
  let fms := columnMask k <<< maskShift k
  let clear : Byte → Byte := fun m => m &&& ~~~fms
  if inval then s.mapCvg clear pstart pend
  else
    let li : Int := left.toNat / 8
    let ri : Int := right.toNat / 8
    let s := s.mapCvg clear pstart (if li < pend then li else pend)
    let s := s.mapCvg clear (if ri < pstart then pstart else ri) pend
    if li < ri then
      let s := s.putCvg ri.toNat (s.cvgAt ri.toNat ||| (rightHex right (columnMask k) <<< maskShift k))
      s.putCvg li.toNat (s.cvgAt li.toNat ||| (leftHex left (columnMask k) <<< maskShift k))
    else if ri = li then
      s.putCvg li.toNat (s.cvgAt li.toNat |||
        ((rightHex right (columnMask k) &&& leftHex left (columnMask k)) <<< maskShift k))
    else s

/-- `CVG_BUILD(i, flip)` (R454): "with `flip = 1` the major edge is the left boundary, with `flip = 0` the right one". -/
def State.cvgBuild (s : State) (i : Int) (flip : Bool) : State :=
  let sp := s.spanAt i
  let pstart : Int := if flip then sp.rx.toNat else sp.lx.toNat
  let pend : Int := if flip then sp.lx.toNat else sp.rx.toNat
  if pend < pstart then s
  else
    let sub := fun (k : Fin 4) (s : State) =>
      if flip then s.cvgSub pstart pend k sp.invalyscan[k] sp.majorx[k] sp.minorx[k]
      else s.cvgSub pstart pend k sp.invalyscan[k] sp.minorx[k] sp.majorx[k]
    sub 3 (sub 2 (sub 1 (sub 0 (s.mapCvg (fun _ => 0xFF) pstart pend))))

/-- The meaning of `CVG_BUILD`. -/
def execCvgBuild (i : BitVec 10) (flip : Bool) (s : State) : Result := .next (s.cvgBuild i.toNat flip)

/-- The meaning of `CVG_LOOKUP` (R462): "Pure: no state written". The flag `curpixel_cvbit` of R32 is written by the pixel body
that takes the returned bit (R214, R232: `PixelVars.front`). -/
def execCvgLookup (m : Byte) (s : State) : Result :=
  .next (s.setRet (.lookup (cvlut m).xoff (cvlut m).yoff (cvlut m).cvg (cvlut m).cvbit))

end Sys2Proof.Machine
end

