-- ==== Sys2Proof/Machine/Framebuffer.lean ====
section
/-! DEFINITION. Framebuffer input and output (`48_framebuffer_io.md` rules R490 to R510). -/

namespace Sys2Proof.Machine

/-! ### Addressing (R491): the sum modulo 2^32, low address bits dropped by the shift -/

/-- The byte index of a pixel at 4 and 8 bpp. -/
def State.fbIndex8 (s : State) (curpixel : Word) : Word := s.gs.img.fbAddress.setWidth 32 + curpixel

/-- The 16-bit index of a pixel at 16 bpp. -/
def State.fbIndex16 (s : State) (curpixel : Word) : Word := (s.gs.img.fbAddress.setWidth 32 >>> 1) + curpixel

/-- The 32-bit index of a pixel at 32 bpp. -/
def State.fbIndex32 (s : State) (curpixel : Word) : Word := (s.gs.img.fbAddress.setWidth 32 >>> 2) + curpixel

/-! ### Reads (R492 to R499) -/

/-- What a framebuffer read delivers: the memory colour and the stored coverage. -/
structure FbPixel where
  color : Color 8
  memcvg : BitVec 3
deriving DecidableEq, Repr

/-- `FB_READ_4` (R492): "no memory access". -/
def fbPixel4 : FbPixel := ⟨⟨0, 0, 0, 0xE0⟩, 7⟩

/-- `FB_READ_8` (R494). -/
def State.fbPixel8 (s : State) (curpixel : Word) : FbPixel :=
  let v := s.rd8 (s.fbIndex8 curpixel)
  ⟨⟨v, v, v, 0xE0⟩, 7⟩

/-- `FB_READ_16` (R496). -/
def State.fbPixel16 (s : State) (curpixel : Word) : FbPixel :=
  let x := s.pairRd16 (s.fbIndex16 curpixel)
  let w := x.1
  let cvg : BitVec 3 := if Om.imageReadEn s.gs.om then w.extractLsb' 0 1 ++ x.2 else 7
  let a : BitVec 8 := cvg ++ 0#5
  if s.gs.img.fbFormat = 0 then
    ⟨⟨w.extractLsb' 11 5 ++ 0#3, w.extractLsb' 6 5 ++ 0#3, w.extractLsb' 1 5 ++ 0#3, a⟩, cvg⟩
  else ⟨⟨w.extractLsb' 8 8, w.extractLsb' 8 8, w.extractLsb' 8 8, a⟩, cvg⟩

/-- `FB_READ_32` (R498). -/
def State.fbPixel32 (s : State) (curpixel : Word) : FbPixel :=
  let w := s.rd32 (s.fbIndex32 curpixel)
  let cvg : BitVec 3 := if Om.imageReadEn s.gs.om then w.extractLsb' 5 3 else 7
  ⟨⟨w.extractLsb' 24 8, w.extractLsb' 16 8, w.extractLsb' 8 8, cvg ++ 0#5⟩, cvg⟩

/-- A read writes `gs.memory`, in 2-cycle mode (`pre`) `gs.pre_memory` instead (R499). -/
def State.latchPixel (s : State) (p : FbPixel) (pre : Bool) : State :=
  if pre then s.setCol { s.gs.col with preMemory := p.color } else s.setCol { s.gs.col with memory := p.color }

/-- The read that `gs.fb_size` selects (R146). -/
def State.fbPixel (s : State) (curpixel : Word) : FbPixel :=
  match s.gs.img.fbSize.toNat with
  | 0 => fbPixel4
  | 1 => s.fbPixel8 curpixel
  | 2 => s.fbPixel16 curpixel
  | _ => s.fbPixel32 curpixel

/-! ### Coverage destination (R500) -/

/-- `FINAL_CVG(blend_en, cvg, memcvg)` (R500). -/
def State.finalCvg (s : State) (blendEn : Bool) (cvg : BitVec 4) (memcvg : BitVec 3) : BitVec 3 :=
  match (Om.cvgDest s.gs.om).toNat with
  | 0 =>
    let t : BitVec 5 := if blendEn then cvg.setWidth 5 + memcvg.setWidth 5 else cvg.setWidth 5 - 1
    if t.getLsbD 3 then 7 else t.setWidth 3
  | 1 => cvg.setWidth 3 + memcvg
  | 2 => 7
  | _ => memcvg

/-! ### Writes (R502 to R508) -/

/-- `FB_WRITE_4` (R502): "The byte is cleared whatever the colour". -/
def State.fbWrite4 (s : State) (o : FbOperands) : State := s.wr8 (s.fbIndex8 o.curpixel) 0

/-- `FB_WRITE_8` (R504): "Only the red channel is stored". -/
def State.fbWrite8 (s : State) (o : FbOperands) : State :=
  s.pairWr8 (s.fbIndex8 o.curpixel) o.r (if o.r.getLsbD 0 then 3 else 0)

/-- `FB_WRITE_16` (R506). -/
def State.fbWrite16 (s : State) (o : FbOperands) : State :=
  let fc := s.finalCvg o.blendEn o.cvg o.memcvg
  if s.gs.img.fbFormat = 0 then
    s.pairWr16 (s.fbIndex16 o.curpixel)
      (o.r.extractLsb' 3 5 ++ (o.g.extractLsb' 3 5 ++ (o.b.extractLsb' 3 5 ++ fc.extractLsb' 2 1))) (fc.extractLsb' 0 2)
  else s.pairWr16 (s.fbIndex16 o.curpixel) (o.r ++ (fc ++ 0#5)) 0

/-- `FB_WRITE_32` (R508). -/
def State.fbWrite32 (s : State) (o : FbOperands) : State :=
  let fc := s.finalCvg o.blendEn o.cvg o.memcvg
  s.pairWr32 (s.fbIndex32 o.curpixel) (o.r ++ (o.g ++ (o.b ++ (fc ++ 0#5)))) (if o.g.getLsbD 0 then 3 else 0) 0

/-- The write that `gs.fb_size` selects (R146). -/
def State.fbWrite (s : State) (o : FbOperands) : State :=
  match s.gs.img.fbSize.toNat with
  | 0 => s.fbWrite4 o
  | 1 => s.fbWrite8 o
  | 2 => s.fbWrite16 o
  | _ => s.fbWrite32 o

/-! ### Fill-mode writes (R510) -/

/-- `FB_FILL_8`: the red channel of the fill colour. -/
def State.fbFill8 (s : State) (curpixel : Word) : State :=
  let r : BitVec 8 := s.gs.misc.fillColor.extractLsb' 24 8
  s.pairWr8 (s.fbIndex8 curpixel) r (if r.getLsbD 0 then 3 else 0)

/-- The fill colour packed to 5-5-5-1 (R510). -/
def fill16 (c : BitVec 32) : BitVec 16 :=
  c.extractLsb' 27 5 ++ (c.extractLsb' 19 5 ++ (c.extractLsb' 11 5 ++ c.extractLsb' 7 1))

/-- `FB_FILL_16`. -/
def State.fbFill16 (s : State) (curpixel : Word) : State :=
  let v := fill16 s.gs.misc.fillColor
  s.pairWr16 (s.fbIndex16 curpixel) v (if v.getLsbD 0 then 3 else 0)

/-- `FB_FILL_32`. -/
def State.fbFill32 (s : State) (curpixel : Word) : State :=
  let c := s.gs.misc.fillColor
  s.pairWr32 (s.fbIndex32 curpixel) c (if c.getLsbD 16 then 3 else 0) (if c.getLsbD 0 then 3 else 0)

/-- The fill that `gs.fb_size` selects; size 0 has none, `RENDER_FILL` crashes first (R510). -/
def State.fbFill (s : State) (curpixel : Word) : State :=
  match s.gs.img.fbSize.toNat with
  | 0 => s
  | 1 => s.fbFill8 curpixel
  | 2 => s.fbFill16 curpixel
  | _ => s.fbFill32 curpixel

/-! ### Meanings -/

/-- The meaning of `FB_READ_4`. -/
def execFbRead4 (_curpixel : Word) (pre : Bool) (s : State) : Result :=
  .next ((s.latchPixel fbPixel4 pre).setRet (.memcvg fbPixel4.memcvg))

/-- The meaning of `FB_READ_8`. -/
def execFbRead8 (curpixel : Word) (pre : Bool) (s : State) : Result :=
  .next ((s.latchPixel (s.fbPixel8 curpixel) pre).setRet (.memcvg (s.fbPixel8 curpixel).memcvg))

/-- The meaning of `FB_READ_16`. -/
def execFbRead16 (curpixel : Word) (pre : Bool) (s : State) : Result :=
  .next ((s.latchPixel (s.fbPixel16 curpixel) pre).setRet (.memcvg (s.fbPixel16 curpixel).memcvg))

/-- The meaning of `FB_READ_32`. -/
def execFbRead32 (curpixel : Word) (pre : Bool) (s : State) : Result :=
  .next ((s.latchPixel (s.fbPixel32 curpixel) pre).setRet (.memcvg (s.fbPixel32 curpixel).memcvg))

/-- The meaning of `FINAL_CVG`. -/
def execFinalCvg (blendEn : Bool) (cvg : BitVec 4) (memcvg : BitVec 3) (s : State) : Result :=
  .next (s.setRet (.memcvg (s.finalCvg blendEn cvg memcvg)))

/-- The meaning of `FB_WRITE_4`. -/
def execFbWrite4 (o : FbOperands) (s : State) : Result := .next (s.fbWrite4 o)

/-- The meaning of `FB_WRITE_8`. -/
def execFbWrite8 (o : FbOperands) (s : State) : Result := .next (s.fbWrite8 o)

/-- The meaning of `FB_WRITE_16`. -/
def execFbWrite16 (o : FbOperands) (s : State) : Result := .next (s.fbWrite16 o)

/-- The meaning of `FB_WRITE_32`. -/
def execFbWrite32 (o : FbOperands) (s : State) : Result := .next (s.fbWrite32 o)

/-- The meaning of `FB_FILL_8`. -/
def execFbFill8 (curpixel : Word) (s : State) : Result := .next (s.fbFill8 curpixel)

/-- The meaning of `FB_FILL_16`. -/
def execFbFill16 (curpixel : Word) (s : State) : Result := .next (s.fbFill16 curpixel)

/-- The meaning of `FB_FILL_32`. -/
def execFbFill32 (curpixel : Word) (s : State) : Result := .next (s.fbFill32 curpixel)

end Sys2Proof.Machine
end

