-- ==== Sys2Proof/Machine/TexMem.lean ====
section
/-! DEFINITION. Texture memory fetch and texel formats (`43_texture_memory.md` rules R300 to R340). -/

namespace Sys2Proof.Machine

/-! ### Addressing (R301) -/

/-- A signed texel coordinate as a 32-bit integer. -/
def coord (v : BitVec 13) : Word := v.signExtend 32

/-- `tbase(T, t)`, in 64-bit words, not reduced. -/
def tbase (t : Tile) (row : BitVec 13) : Word := t.line.setWidth 32 * coord row + t.tmem.setWidth 32

/-- `swap8(t)`: the "dword-swap" on a byte address. -/
def swap8 (row : BitVec 13) : Word := if row.getLsbD 0 then 4 else 0

/-- `swap16(t)`: the same swap on a 16-bit index. -/
def swap16 (row : BitVec 13) : Word := if row.getLsbD 0 then 2 else 0

/-- `addr4`: the byte that holds the nibble. -/
def addr4 (t : Tile) (s row : BitVec 13) : Word :=
  (((tbase t row <<< 4) + coord s).sshiftRight 1 ^^^ swap8 row) &&& 0xFFF

/-- `addr8`. -/
def addr8 (t : Tile) (s row : BitVec 13) : Word := (((tbase t row <<< 3) + coord s) ^^^ swap8 row) &&& 0xFFF

/-- `addr16`: a 16-bit index. -/
def addr16 (t : Tile) (s row : BitVec 13) : Word := (((tbase t row <<< 2) + coord s) ^^^ swap16 row) &&& 0x7FF

/-- `addr32`: a 16-bit index into the low half. -/
def addr32 (t : Tile) (s row : BitVec 13) : Word := (((tbase t row <<< 2) + coord s) ^^^ swap16 row) &&& 0x3FF

/-- The 16-bit index of a YUV chroma pair, in the low half (R313, R330). -/
def addrChroma (t : Tile) (s row : BitVec 13) : Word :=
  (((tbase t row <<< 3) + coord s).sshiftRight 1 ^^^ swap16 row) &&& 0x3FF

/-- The byte of a YUV luma, in the high half (R313). -/
def addrLuma (t : Tile) (s row : BitVec 13) : Word :=
  ((((tbase t row <<< 3) + coord s) ^^^ swap8 row) &&& 0x7FF) ||| 0x800

/-- The nibble of a byte: `(s & 1) ? low : high` (R301, R346 (d)). -/
def nibbleOf (b : Byte) (s : BitVec 13) : BitVec 4 := if s.getLsbD 0 then b.extractLsb' 0 4 else b.extractLsb' 4 4

/-! ### Expansion (R306) -/

/-- `rep5(v)` expands 5 bits to 8. -/
def rep5 (v : BitVec 5) : BitVec 8 := v ++ v.extractLsb' 2 3

/-- `rep4(v)`. -/
def rep4 (v : BitVec 4) : BitVec 8 := v ++ v

/-- A texel with 8-bit channels. -/
def texel8 (r g b a : BitVec 8) : Color 9 := ⟨r.setWidth 9, g.setWidth 9, b.setWidth 9, a.setWidth 9⟩

/-- One value on all four channels. -/
def texelGrey (v : BitVec 8) : Color 9 := texel8 v v v v

/-- The conversion of R310: 5-5-5-1. -/
def texelRgba16 (c : BitVec 16) : Color 9 :=
  texel8 (rep5 (c.extractLsb' 11 5)) (rep5 (c.extractLsb' 6 5)) (rep5 (c.extractLsb' 1 5))
    (if c.getLsbD 0 then 0xFF else 0)

/-- The conversion of R321: intensity and alpha bytes. -/
def texelIa16 (c : BitVec 16) : Color 9 :=
  let i := c.extractLsb' 8 8
  texel8 i i i (c.extractLsb' 0 8)

/-- The conversion of R317, R322: two bytes and an alpha bit. -/
def texelPair (c : BitVec 16) : Color 9 :=
  texel8 (c.extractLsb' 8 8) (c.extractLsb' 0 8) (c.extractLsb' 8 8) (if c.getLsbD 0 then 0xFF else 0)

/-! ### The arms without TLUT (R308 to R325) -/

/-- The nibble at `(s, t)`. -/
def State.texNibble (m : State) (t : Tile) (s row : BitVec 13) : BitVec 4 := nibbleOf (m.tmem8 (addr4 t s row)) s

/-- R308: the nibble replicated on all channels. -/
def State.fetchGrey4 (m : State) (t : Tile) (s row : BitVec 13) : Color 9 := texelGrey (rep4 (m.texNibble t s row))

/-- R309: the byte on all channels. -/
def State.fetchGrey8 (m : State) (t : Tile) (s row : BitVec 13) : Color 9 := texelGrey (m.tmem8 (addr8 t s row))

/-- R313: chroma in the low half as signed 9-bit values, luma in the high half. -/
def State.fetchYuv (m : State) (t : Tile) (s row : BitVec 13) : Color 9 :=
  let y := m.tmem8 (addrLuma t s row)
  let c := m.tmem16 (addrChroma t s row)
  let u : BitVec 8 := c.extractLsb' 8 8 ^^^ 0x80
  let v : BitVec 8 := c.extractLsb' 0 8 ^^^ 0x80
  ⟨u.signExtend 9, v.signExtend 9, y.setWidth 9, y.setWidth 9⟩

/-- RGBA 4 (R308). -/
def State.fetchRgba4 (m : State) (t : Tile) (s row : BitVec 13) : Color 9 :=
  m.fetchGrey4 t s row

/-- RGBA 8 (R309). -/
def State.fetchRgba8 (m : State) (t : Tile) (s row : BitVec 13) : Color 9 :=
  m.fetchGrey8 t s row

/-- RGBA 16 (R310). -/
def State.fetchRgba16 (m : State) (t : Tile) (s row : BitVec 13) : Color 9 :=
  texelRgba16 (m.tmem16 (addr16 t s row))

/-- RGBA 32: red and green in the low half, blue and alpha in the high half (R318). -/
def State.fetchRgba32 (m : State) (t : Tile) (s row : BitVec 13) : Color 9 :=
  let i := addr32 t s row
  let c := m.tmem16 i
  let d := m.tmem16 (i ||| 0x400)
  texel8 (c.extractLsb' 8 8) (c.extractLsb' 0 8) (d.extractLsb' 8 8) (d.extractLsb' 0 8)

/-- YUV 4 (R311, "Low confidence"), log entry 29. -/
def State.fetchYuv4 (m : State) (t : Tile) (s row : BitVec 13) : Color 9 :=
  m.fetchGrey4 t s row

/-- YUV 8 (R312, "Low confidence"), log entry 29. -/
def State.fetchYuv8 (m : State) (t : Tile) (s row : BitVec 13) : Color 9 :=
  m.fetchGrey8 t s row

/-- YUV 16 (R313). -/
def State.fetchYuv16 (m : State) (t : Tile) (s row : BitVec 13) : Color 9 :=
  m.fetchYuv t s row

/-- YUV 32 (R314, "Low confidence"), log entry 29. -/
def State.fetchYuv32 (m : State) (t : Tile) (s row : BitVec 13) : Color 9 :=
  m.fetchYuv t s row

/-- CI 4 without TLUT (R315). -/
def State.fetchCi4 (m : State) (t : Tile) (s row : BitVec 13) : Color 9 :=
  texelGrey (t.palette ++ m.texNibble t s row)

/-- CI 8 without TLUT (R316). -/
def State.fetchCi8 (m : State) (t : Tile) (s row : BitVec 13) : Color 9 :=
  m.fetchGrey8 t s row

/-- CI 16 without TLUT (R317). -/
def State.fetchCi16 (m : State) (t : Tile) (s row : BitVec 13) : Color 9 :=
  texelPair (m.tmem16 (addr16 t s row))

/-- CI 32 without TLUT (R317). -/
def State.fetchCi32 (m : State) (t : Tile) (s row : BitVec 13) : Color 9 :=
  texelPair (m.tmem16 (addr32 t s row))

/-- IA 4 (R319). -/
def State.fetchIa4 (m : State) (t : Tile) (s row : BitVec 13) : Color 9 :=
  let n := m.texNibble t s row
  let i3 : BitVec 3 := n.extractLsb' 1 3
  let i : BitVec 8 := i3 ++ (i3 ++ i3.extractLsb' 1 2)
  texel8 i i i (if n.getLsbD 0 then 0xFF else 0)

/-- IA 8 (R320). -/
def State.fetchIa8 (m : State) (t : Tile) (s row : BitVec 13) : Color 9 :=
  let p := m.tmem8 (addr8 t s row)
  let i := rep4 (p.extractLsb' 4 4)
  texel8 i i i (rep4 (p.extractLsb' 0 4))

/-- IA 16 (R321). -/
def State.fetchIa16 (m : State) (t : Tile) (s row : BitVec 13) : Color 9 :=
  texelIa16 (m.tmem16 (addr16 t s row))

/-- IA 32 (R322). -/
def State.fetchIa32 (m : State) (t : Tile) (s row : BitVec 13) : Color 9 :=
  texelPair (m.tmem16 (addr32 t s row))

/-- I 4 (R323). -/
def State.fetchI4 (m : State) (t : Tile) (s row : BitVec 13) : Color 9 :=
  m.fetchGrey4 t s row

/-- I 8 (R324). -/
def State.fetchI8 (m : State) (t : Tile) (s row : BitVec 13) : Color 9 :=
  m.fetchGrey8 t s row

/-- I 16 (R325). -/
def State.fetchI16 (m : State) (t : Tile) (s row : BitVec 13) : Color 9 :=
  texelPair (m.tmem16 (addr16 t s row))

/-- I 32 (R325). -/
def State.fetchI32 (m : State) (t : Tile) (s row : BitVec 13) : Color 9 :=
  texelPair (m.tmem16 (addr32 t s row))

/-- The arm of a fetch without TLUT, by `T.notlutswitch` (R302, R306); 20 to 31 have no arm and refuse (R160, R576). -/
def State.fetchTile (m : State) (t : Tile) (s row : BitVec 13) : Except Refusal (Color 9) :=
  match t.notlutswitch.toNat with
  | 0 => .ok (m.fetchRgba4 t s row)
  | 1 => .ok (m.fetchRgba8 t s row)
  | 2 => .ok (m.fetchRgba16 t s row)
  | 3 => .ok (m.fetchRgba32 t s row)
  | 4 => .ok (m.fetchYuv4 t s row)
  | 5 => .ok (m.fetchYuv8 t s row)
  | 6 => .ok (m.fetchYuv16 t s row)
  | 7 => .ok (m.fetchYuv32 t s row)
  | 8 => .ok (m.fetchCi4 t s row)
  | 9 => .ok (m.fetchCi8 t s row)
  | 10 => .ok (m.fetchCi16 t s row)
  | 11 => .ok (m.fetchCi32 t s row)
  | 12 => .ok (m.fetchIa4 t s row)
  | 13 => .ok (m.fetchIa8 t s row)
  | 14 => .ok (m.fetchIa16 t s row)
  | 15 => .ok (m.fetchIa32 t s row)
  | 16 => .ok (m.fetchI4 t s row)
  | 17 => .ok (m.fetchI8 t s row)
  | 18 => .ok (m.fetchI16 t s row)
  | 19 => .ok (m.fetchI32 t s row)
  | _ => .error .reservedTileFormat

/-- `TMEM_FETCH_1(tilenum, s, t)` (R302). -/
def State.tmemFetch1 (m : State) (tilenum : BitVec 3) (s row : BitVec 13) : Except Refusal (Color 9) :=
  m.fetchTile (m.tile tilenum) s row

/-! ### TLUT indirection (R330 to R334) -/

/-- The table index of the texel at `(s, t)`, by `T.tlutswitch` (R330). The index of sizes 16 and 32 stays in the low half
("indices are masked to it for sizes 16 and 32"), DEDUCED, log entry 16, unsafe. -/
def State.tlutIndex (m : State) (t : Tile) (s row : BitVec 13) : BitVec 8 :=
  let sw := t.tlutswitch.toNat
  if sw < 3 then t.palette ++ m.texNibble t s row
  else if sw = 3 then t.palette ++ nibbleOf (m.tmem8 (addr8 t s row)) s
  else if sw < 8 then m.tmem8 (addr8 t s row)
  else if sw < 11 then (m.tmem16 (addr16 t s row &&& 0x3FF)).extractLsb' 8 8
  else if sw = 11 then (m.tmem16 (addrChroma t s row)).extractLsb' 8 8
  else if sw < 15 then (m.tmem16 (addr32 t s row)).extractLsb' 8 8
  else (m.tmem16 (addrChroma t s row)).extractLsb' 8 8

/-- Bank `k` of table entry `e`: `Tmem16(0x400 + ((e << 2) | k))` (R330). -/
def State.tlutEntry (m : State) (e : BitVec 8) (k : BitVec 2) : BitVec 16 :=
  m.tmem16 (0x400 + (e ++ k).setWidth 32)

/-- The conversion of a table entry (R334). -/
def State.tlutTexel (m : State) (c : BitVec 16) : Color 9 :=
  if Om.tlutType m.gs.om then texelIa16 c else texelRgba16 c

/-- A texel fetch from a tile of format 5, 6 or 7 is refused (R160), with or without TLUT, DEDUCED, log entry 18, safe. -/
def formatCheck (t : Tile) : Except Refusal Unit :=
  if t.format.toNat < 5 then .ok () else .error .reservedTileFormat

/-- One tap of a TLUT fetch: index, entry of `bank`, conversion (R330, R334). -/
def State.tlutTap (m : State) (t : Tile) (s row : BitVec 13) (bank : BitVec 2) : Color 9 :=
  m.tlutTexel (m.tlutEntry (m.tlutIndex t s row) bank)

/-- `TMEM_FETCH_TLUT`: the four taps through the lookup table. Bilinear (R330): tap `k` from its own texel and from bank
`k ^ (upper ? 3 : 0)`. Nearest (R332): "one index `e` is read at `(s, t)` and the four taps are the four bank copies",
tap `k` from bank `k`, DEDUCED, log entry 17, unsafe. -/
def State.tmemFetchTlut (m : State) (tilenum : BitVec 3) (s : BitVec 13) (sdiff : BitVec 11) (row : BitVec 13)
    (tdiff : BitVec 11) (upper : Bool) : Except Refusal Quad :=
  let t := m.tile tilenum
  let s' := s + sdiff.signExtend 13
  let row' := row + tdiff.signExtend 13
  let x : BitVec 2 := if upper then 3 else 0
  match formatCheck t with
  | .error e => .error e
  | .ok _ =>
    if Om.sampleType m.gs.om then
      .ok ⟨m.tlutTap t s row (0 ^^^ x), m.tlutTap t s' row (1 ^^^ x), m.tlutTap t s row' (2 ^^^ x),
        m.tlutTap t s' row' (3 ^^^ x)⟩
    else .ok ⟨m.tlutTap t s row 0, m.tlutTap t s row 1, m.tlutTap t s row 2, m.tlutTap t s row 3⟩

/-- `TMEM_FETCH_QUAD(tilenum, s, sdiff, t, tdiff, upper)` (R304): "The neighbour coordinates are not masked again". -/
def State.tmemFetchQuad (m : State) (tilenum : BitVec 3) (s : BitVec 13) (sdiff : BitVec 11) (row : BitVec 13)
    (tdiff : BitVec 11) (upper : Bool) : Except Refusal Quad :=
  if Om.enTlut m.gs.om then m.tmemFetchTlut tilenum s sdiff row tdiff upper
  else
    let s' := s + sdiff.signExtend 13
    let row' := row + tdiff.signExtend 13
    match m.tmemFetch1 tilenum s row, m.tmemFetch1 tilenum s' row, m.tmemFetch1 tilenum s row',
        m.tmemFetch1 tilenum s' row' with
    | .ok q0, .ok q1, .ok q2, .ok q3 => .ok ⟨q0, q1, q2, q3⟩
    | .error e, _, _, _ => .error e
    | _, .error e, _, _ => .error e
    | _, _, .error e, _ => .error e
    | _, _, _, .error e => .error e

/-! ### Meanings -/

/-- The meaning of `TMEM_FETCH_1`. -/
def execTmemFetch1 (tilenum : BitVec 3) (s row : BitVec 13) (m : State) : Result :=
  retOf m .texel (m.tmemFetch1 tilenum s row)

/-- The meaning of `TMEM_FETCH_QUAD`. -/
def execTmemFetchQuad (tilenum : BitVec 3) (s : BitVec 13) (sdiff : BitVec 11) (row : BitVec 13) (tdiff : BitVec 11)
    (upper : Bool) (m : State) : Result :=
  retOf m .quad (m.tmemFetchQuad tilenum s sdiff row tdiff upper)

/-- The meaning of `TMEM_FETCH_TLUT`. -/
def execTmemFetchTlut (tilenum : BitVec 3) (s : BitVec 13) (sdiff : BitVec 11) (row : BitVec 13) (tdiff : BitVec 11)
    (upper : Bool) (m : State) : Result :=
  retOf m .quad (m.tmemFetchTlut tilenum s sdiff row tdiff upper)

/-- The meaning of `TMEM_FETCH_RGBA4` (R308). -/
def execTmemFetchRgba4 (tilenum : BitVec 3) (s row : BitVec 13) (m : State) : Result :=
  .next (m.setRet (.texel (m.fetchRgba4 (m.tile tilenum) s row)))

/-- The meaning of `TMEM_FETCH_RGBA8` (R309). -/
def execTmemFetchRgba8 (tilenum : BitVec 3) (s row : BitVec 13) (m : State) : Result :=
  .next (m.setRet (.texel (m.fetchRgba8 (m.tile tilenum) s row)))

/-- The meaning of `TMEM_FETCH_RGBA16` (R310). -/
def execTmemFetchRgba16 (tilenum : BitVec 3) (s row : BitVec 13) (m : State) : Result :=
  .next (m.setRet (.texel (m.fetchRgba16 (m.tile tilenum) s row)))

/-- The meaning of `TMEM_FETCH_RGBA32` (R318). -/
def execTmemFetchRgba32 (tilenum : BitVec 3) (s row : BitVec 13) (m : State) : Result :=
  .next (m.setRet (.texel (m.fetchRgba32 (m.tile tilenum) s row)))

/-- The meaning of `TMEM_FETCH_YUV4` (R311). -/
def execTmemFetchYuv4 (tilenum : BitVec 3) (s row : BitVec 13) (m : State) : Result :=
  .next (m.setRet (.texel (m.fetchYuv4 (m.tile tilenum) s row)))

/-- The meaning of `TMEM_FETCH_YUV8` (R312). -/
def execTmemFetchYuv8 (tilenum : BitVec 3) (s row : BitVec 13) (m : State) : Result :=
  .next (m.setRet (.texel (m.fetchYuv8 (m.tile tilenum) s row)))

/-- The meaning of `TMEM_FETCH_YUV16` (R313). -/
def execTmemFetchYuv16 (tilenum : BitVec 3) (s row : BitVec 13) (m : State) : Result :=
  .next (m.setRet (.texel (m.fetchYuv16 (m.tile tilenum) s row)))

/-- The meaning of `TMEM_FETCH_YUV32` (R314). -/
def execTmemFetchYuv32 (tilenum : BitVec 3) (s row : BitVec 13) (m : State) : Result :=
  .next (m.setRet (.texel (m.fetchYuv32 (m.tile tilenum) s row)))

/-- The meaning of `TMEM_FETCH_CI4` (R315). -/
def execTmemFetchCi4 (tilenum : BitVec 3) (s row : BitVec 13) (m : State) : Result :=
  .next (m.setRet (.texel (m.fetchCi4 (m.tile tilenum) s row)))

/-- The meaning of `TMEM_FETCH_CI8` (R316). -/
def execTmemFetchCi8 (tilenum : BitVec 3) (s row : BitVec 13) (m : State) : Result :=
  .next (m.setRet (.texel (m.fetchCi8 (m.tile tilenum) s row)))

/-- The meaning of `TMEM_FETCH_CI16` (R317). -/
def execTmemFetchCi16 (tilenum : BitVec 3) (s row : BitVec 13) (m : State) : Result :=
  .next (m.setRet (.texel (m.fetchCi16 (m.tile tilenum) s row)))

/-- The meaning of `TMEM_FETCH_CI32` (R317). -/
def execTmemFetchCi32 (tilenum : BitVec 3) (s row : BitVec 13) (m : State) : Result :=
  .next (m.setRet (.texel (m.fetchCi32 (m.tile tilenum) s row)))

/-- The meaning of `TMEM_FETCH_IA4` (R319). -/
def execTmemFetchIa4 (tilenum : BitVec 3) (s row : BitVec 13) (m : State) : Result :=
  .next (m.setRet (.texel (m.fetchIa4 (m.tile tilenum) s row)))

/-- The meaning of `TMEM_FETCH_IA8` (R320). -/
def execTmemFetchIa8 (tilenum : BitVec 3) (s row : BitVec 13) (m : State) : Result :=
  .next (m.setRet (.texel (m.fetchIa8 (m.tile tilenum) s row)))

/-- The meaning of `TMEM_FETCH_IA16` (R321). -/
def execTmemFetchIa16 (tilenum : BitVec 3) (s row : BitVec 13) (m : State) : Result :=
  .next (m.setRet (.texel (m.fetchIa16 (m.tile tilenum) s row)))

/-- The meaning of `TMEM_FETCH_IA32` (R322). -/
def execTmemFetchIa32 (tilenum : BitVec 3) (s row : BitVec 13) (m : State) : Result :=
  .next (m.setRet (.texel (m.fetchIa32 (m.tile tilenum) s row)))

/-- The meaning of `TMEM_FETCH_I4` (R323). -/
def execTmemFetchI4 (tilenum : BitVec 3) (s row : BitVec 13) (m : State) : Result :=
  .next (m.setRet (.texel (m.fetchI4 (m.tile tilenum) s row)))

/-- The meaning of `TMEM_FETCH_I8` (R324). -/
def execTmemFetchI8 (tilenum : BitVec 3) (s row : BitVec 13) (m : State) : Result :=
  .next (m.setRet (.texel (m.fetchI8 (m.tile tilenum) s row)))

/-- The meaning of `TMEM_FETCH_I16` (R325). -/
def execTmemFetchI16 (tilenum : BitVec 3) (s row : BitVec 13) (m : State) : Result :=
  .next (m.setRet (.texel (m.fetchI16 (m.tile tilenum) s row)))

/-- The meaning of `TMEM_FETCH_I32` (R325). -/
def execTmemFetchI32 (tilenum : BitVec 3) (s row : BitVec 13) (m : State) : Result :=
  .next (m.setRet (.texel (m.fetchI32 (m.tile tilenum) s row)))

end Sys2Proof.Machine
end

