-- ==== Sys2Proof/Machine/Texture.lean ====
section
/-! DEFINITION. The texture unit and level of detail (`42_texture_unit.md` rules R260 to R290) and the copy-mode texel
(`43_texture_memory.md` rule R340). -/

namespace Sys2Proof.Machine

/-! ### Coordinate divide (R262 to R268) -/

/-- Two 19-bit coordinates. -/
structure Coord2 where
  s : BitVec 19
  t : BitVec 19
deriving DecidableEq, Repr

/-- `TC_DIV`, non-perspective variant (R264): `sext_16(c) & 0x1FFFF`. -/
def tcDivNonpersp (ss st : BitVec 16) : Coord2 := ⟨(ss.signExtend 17).setWidth 19, (st.signExtend 17).setWidth 19⟩

/-- One axis of the perspective divider (R266). -/
def perspAxis (c : BitVec 16) (e : RcpEntry) (wCarry : Bool) : BitVec 19 :=
  let prod : Word := c.signExtend 32 * e.rcp.setWidth 32
  let tempmask : Word := 0x3FFFFFFF &&& -(0x20000000#32 >>> e.shift.val)
  let oob := prod &&& tempmask
  let temp : Word := if e.shift.val ≠ 14 then prod.sshiftRight (13 - e.shift.val) else prod <<< 1
  let overBits : BitVec 19 :=
    if oob ≠ tempmask ∧ oob ≠ 0 then (if prod.getLsbD 29 then 0x20000 else 0x40000) else 0
  let carry : BitVec 19 := if wCarry then 0x40000 else 0
  ((temp &&& 0x1FFFF).setWidth 19) ||| overBits ||| carry

/-- `TC_DIV`, perspective variant (R266); the table `tcdiv_rcp` is an OPEN parameter, log entry 9. -/
def tcDivPersp (ss st sw : BitVec 16) : Coord2 :=
  let wCarry := decide (sw.toInt ≤ 0)
  let e := Config.tcdivRcp (sw.setWidth 15)
  ⟨perspAxis ss e wCarry, perspAxis st e wCarry⟩

/-- `TC_DIV`: the variant that `gs.persp` selects (R146, C17). -/
def State.tcDiv (m : State) (ss st sw : BitVec 16) : Coord2 :=
  if m.gs.der.persp then tcDivPersp ss st sw else tcDivNonpersp ss st

/-- `TC_DIV` of three accumulators, by their integer parts (R262). -/
def State.tcDivAcc (m : State) (s t w : Word) : Coord2 :=
  m.tcDiv (s.extractLsb' 16 16) (t.extractLsb' 16 16) (w.extractLsb' 16 16)

/-- `TC_CLAMP17(c)` (R268). -/
def tcClamp17 (c : BitVec 19) : BitVec 16 :=
  if c.getLsbD 18 then 0x7FFF
  else if c.getLsbD 17 then 0x8000
  else if c &&& 0x18000 = 0x08000 then 0x7FFF
  else if c &&& 0x18000 = 0x10000 then 0x8000
  else c.setWidth 16

/-! ### Shift, clamp, mask (R270 to R274) -/

/-- `TC_SHIFT(c, shift, sh)` (R270): the shifted coordinate, sign-extended, and `max`. -/
def tcShift (c : BitVec 16) (shift : BitVec 4) (sh : BitVec 12) : BitVec 17 × Bool :=
  let c' : BitVec 16 := if shift.toNat < 11 then c.sshiftRight shift.toNat else c <<< (16 - shift.toNat)
  (c'.signExtend 17, decide ((sh.toNat : Int) ≤ c'.toInt / 8))

/-- The tile-relative coordinate: `c' - (sl << 3)` (R270). -/
def tileRelative (c : BitVec 17) (lo : BitVec 12) : BitVec 17 := c - (lo.setWidth 17 <<< 3)

/-- The integer part of a relative coordinate: `c >> 5`. -/
def texelIndex (c : BitVec 17) : BitVec 12 := c.extractLsb' 5 12

/-- `TC_CLAMP(c, frac, max, clampen, clampdiff)` (R271): integer texel index and fraction. -/
def tcClamp (c : BitVec 17) (frac : BitVec 5) (max clampen : Bool) (clampdiff : BitVec 10) : BitVec 12 × BitVec 5 :=
  if clampen then
    if max then (clampdiff.setWidth 12, 0)
    else if c.getLsbD 16 then (0, 0)
    else (texelIndex c, frac)
  else (texelIndex c, frac)

/-- `(c >> n) & 1` of a signed coordinate. -/
def wrapBit (c : BitVec 12) (n : BitVec 4) : Bool := (c.sshiftRight n.toNat).getLsbD 0

/-- `TC_MASK(c, mask, mirror, maskclamped)` (R273). -/
def tcMask (c : BitVec 12) (mask : BitVec 4) (mirror : Bool) (maskclamped : BitVec 4) : BitVec 12 :=
  if mask = 0 then c
  else (if mirror && wrapBit c maskclamped then ~~~c else c) &&& maskbits mask

/-- `TC_MASK_COUPLED(c, mask, mirror, maskclamped)` (R274): the masked coordinate and the step to the neighbouring tap. -/
def tcMaskCoupled (c : BitVec 12) (mask : BitVec 4) (mirror : Bool) (maskclamped : BitVec 4) : BitVec 12 × BitVec 11 :=
  if mask = 0 then (c, 1)
  else if mirror then
    let wrap := wrapBit c maskclamped
    let c' := (if wrap then ~~~c else c) &&& maskbits mask
    let edge := (c' - (if wrap then 1 else 0)) &&& maskbits mask
    (c', if edge = maskbits mask then 0 else if wrap then -1 else 1)
  else
    let c' := c &&& maskbits mask
    (c', if c' = maskbits mask then (-c').setWidth 11 else 1)

/-! ### Filter arms (R276 to R280) -/

/-- Apply `f` to each channel. -/
def mapColor (f : BitVec v → BitVec w) (c : Color v) : Color w := ⟨f c.r, f c.g, f c.b, f c.a⟩

/-- `ARM_POINT` (R277). -/
def armPoint (q0 : Color 9) : Color 9 := q0

/-- `ARM_POINT_CONVERT` (R277). -/
def armPointConvert (prev : Color 9) : Color 9 := ⟨prev.b, prev.b, prev.b, prev.b⟩

/-- `sfrac + tfrac >= 0x20` (R276). -/
def upperTriangle (sfrac tfrac : BitVec 5) : Bool := decide (0x20 ≤ sfrac.toNat + tfrac.toNat)

/-- One channel of `ARM_LERP` (R278), from the four taps as integers. -/
def lerpChannel (center upper : Bool) (sfrac tfrac : BitVec 5) (q0 q1 q2 q3 : Int) : BitVec 9 :=
  let sf : Int := sfrac.toNat
  let tf : Int := tfrac.toNat
  BitVec.ofInt 9 <|
    if center then q3 + (((q1 + q2) * 64 - q3 * 128 + (-q3 - 1 + q0) * 64 + 0xC0) >>> 8)
    else if upper then q3 + (((0x20 - sf) * (q2 - q3) + (0x20 - tf) * (q1 - q3) + 0x10) >>> 5)
    else q0 + ((sf * (q1 - q0) + tf * (q2 - q0) + 0x10) >>> 5)

/-- `center` of R278 for one pair of fractions. -/
def lerpCenter (midTexel : Bool) (sfrac tfrac : BitVec 5) : Bool := midTexel && sfrac == 0x10 && tfrac == 0x10

/-- `sfrac_rg` (R278): the chroma fraction shared between texel pairs. -/
def chromaFrac (sfrac : BitVec 5) (s3odd : Bool) : BitVec 5 := BitVec.ofBool s3odd ++ sfrac.extractLsb' 1 4

/-- `ARM_LERP` (R278): for a YUV tile `r` and `g` are signed and use `sfrac_rg`. -/
def armLerp (midTexel : Bool) (q : Quad) (sfrac tfrac : BitVec 5) (s3odd yuv : Bool) : Color 9 :=
  let ch := fun (sf : BitVec 5) (rd : BitVec 9 → Int) (f : Color 9 → BitVec 9) =>
    lerpChannel (lerpCenter midTexel sf tfrac) (upperTriangle sf tfrac) sf tfrac
      (rd (f q.q0)) (rd (f q.q1)) (rd (f q.q2)) (rd (f q.q3))
  let plain : BitVec 9 → Int := fun v => v.toNat
  let sfRg := if yuv then chromaFrac sfrac s3odd else sfrac
  let rdRg : BitVec 9 → Int := if yuv then BitVec.toInt else plain
  ⟨ch sfRg rdRg Color.r, ch sfRg rdRg Color.g, ch sfrac plain Color.b, ch sfrac plain Color.a⟩

/-- One channel of `ARM_LERP_CONVERT` (R279); the taps and the base are read unsigned, DEDUCED, log entry 28, unsafe. -/
def lerpConvertChannel (prev : Color 9) (upper : Bool) (q0 q1 q2 q3 : BitVec 9) : BitVec 9 :=
  let pr := prev.r.toInt
  let pg := prev.g.toInt
  let d := fun (x y : BitVec 9) => (x.toNat : Int) - y.toNat
  BitVec.ofInt 9 <| (prev.b.toNat : Int) +
    (if upper then (pr * d q2 q3 + pg * d q1 q3 + 0x80) >>> 8 else (pr * d q1 q0 + pg * d q2 q0 + 0x80) >>> 8)

/-- `ARM_LERP_CONVERT` (R279): the weights come from the previous texel. -/
def armLerpConvert (prev : Color 9) (q : Quad) (upper : Bool) : Color 9 :=
  let ch := fun (f : Color 9 → BitVec 9) => lerpConvertChannel prev upper (f q.q0) (f q.q1) (f q.q2) (f q.q3)
  ⟨ch Color.r, ch Color.g, ch Color.b, ch Color.a⟩

/-- The YUV to RGB conversion of R280: `u`, `v` signed, `y` the luma. -/
def State.yuvConvert (m : State) (u v y : BitVec 9) : Color 9 :=
  let lum : Int := y.toNat
  ⟨BitVec.ofInt 9 (lum + ((m.gs.sca.k0.toInt * v.toInt + 0x80) >>> 8)),
   BitVec.ofInt 9 (lum + ((m.gs.sca.k1.toInt * u.toInt + m.gs.sca.k2.toInt * v.toInt + 0x80) >>> 8)),
   BitVec.ofInt 9 (lum + ((m.gs.sca.k3.toInt * u.toInt + 0x80) >>> 8)),
   y⟩

/-- `ARM_YUV1` (R280): `x = convert ? prev : q0`. -/
def State.armYuv1 (m : State) (prev q0 : Color 9) (convert : Bool) : Color 9 :=
  let x := if convert then prev else q0
  m.yuvConvert x.r x.g x.b

/-- `ARM_YUV4` (R280): chroma by `upper_rg`, luma by `upper`. -/
def State.armYuv4 (m : State) (prev : Color 9) (q : Quad) (convert upper upperRg : Bool) : Color 9 :=
  let c := if convert then prev else if upperRg then q.q3 else q.q0
  let l := if convert then prev else if upper then q.q3 else q.q0
  m.yuvConvert c.r c.g l.b

/-! ### The texture cycle (R276) -/

/-- `T.format` is YUV (R40). -/
def Tile.isYuv (t : Tile) : Bool := t.format == 1

/-- `TEX_CYCLE(prev, SSS, SST, tilenum, cycle)` (R276). The chroma triangle of `ARM_YUV4` is the plain one for a tile that is not
YUV, DEDUCED, log entry 15, unsafe. -/
def State.texCycle (m : State) (prev : Color 9) (sss sst : BitVec 16) (tilenum : BitVec 3) (cycle : Bool) :
    Except Refusal (Color 9) :=
  let t := m.tile tilenum
  let bilerp := if cycle then Om.biLerp1 m.gs.om else Om.biLerp0 m.gs.om
  let convert := Om.convertOne m.gs.om && cycle
  let hs := tcShift sss t.shiftS t.sh
  let ht := tcShift sst t.shiftT t.th
  let s1 := tileRelative hs.1 t.sl
  let t1 := tileRelative ht.1 t.tl
  if Om.sampleType m.gs.om || Om.enTlut m.gs.om then
    let cs := tcClamp s1 (s1.setWidth 5) hs.2 t.clampens t.clampdiffs
    let ct := tcClamp t1 (t1.setWidth 5) ht.2 t.clampent t.clampdifft
    let ms := tcMaskCoupled cs.1 t.maskS t.ms t.masksclamped
    let mt := tcMaskCoupled ct.1 t.maskT t.mt t.masktclamped
    let upper := upperTriangle cs.2 ct.2
    let odd := ms.1.getLsbD 0
    match m.tmemFetchQuad tilenum (ms.1.signExtend 13) ms.2 (mt.1.signExtend 13) mt.2 upper with
    | .error e => .error e
    | .ok q => .ok <|
      if bilerp then
        if convert then armLerpConvert prev q upper
        else armLerp (Om.midTexel m.gs.om) q cs.2 ct.2 odd t.isYuv
      else
        let upperRg := if t.isYuv then upperTriangle (chromaFrac cs.2 odd) ct.2 else upper
        m.armYuv4 prev q convert upper upperRg
  else
    let s2 := (tcClamp s1 0 hs.2 t.clampens t.clampdiffs).1
    let t2 := (tcClamp t1 0 ht.2 t.clampent t.clampdifft).1
    let s3 := tcMask s2 t.maskS t.ms t.masksclamped
    let t3 := tcMask t2 t.maskT t.mt t.masktclamped
    match m.tmemFetch1 tilenum (s3.signExtend 13) (t3.signExtend 13) with
    | .error e => .error e
    | .ok q0 => .ok <|
      if bilerp then if convert then armPointConvert prev else armPoint q0
      else m.armYuv1 prev q0 convert

/-! ### Level of detail (R281 to R288) -/

/-- One coordinate delta of `LOD_DELTA` (R282). -/
def lodAxis (a b : BitVec 19) : BitVec 18 :=
  let d := (b.setWidth 17).signExtend 18 - (a.setWidth 17).signExtend 18
  if d.getLsbD 17 then ~~~d &&& 0x1FFFF else d

/-- The larger of two unsigned values. -/
def maxBv (a b : BitVec w) : BitVec w := if a < b then b else a

/-- `LOD_DELTA(a, b, prev)` (R282). -/
def lodDelta (a b : Coord2) (prev : BitVec 15) : BitVec 15 :=
  let d := maxBv (maxBv (lodAxis a.s b.s) (lodAxis a.t b.t)) (prev.setWidth 18)
  if d &&& 0x1C000 ≠ 0 then d.setWidth 15 ||| 0x4000 else d.setWidth 15

/-- A coordinate with an over- or underflow mark (R262, R282). -/
def coordMarked (c : BitVec 19) : Bool := decide (c &&& 0x60000 ≠ 0)

/-- `lodclamp` (R282). -/
def lodClamp (cur nextx nexty : Coord2) : Bool :=
  coordMarked cur.s || coordMarked cur.t || coordMarked nextx.s || coordMarked nextx.t || coordMarked nexty.s
    || coordMarked nexty.t

/-- `LOD_VALUE(cur, nextx, nexty)` (R282). -/
def lodValue (cur nextx nexty : Coord2) : BitVec 15 × Bool :=
  let c := lodClamp cur nextx nexty
  (if c then 0 else lodDelta cur nexty (lodDelta cur nextx 0), c)

/-- What `LOD_SIGNALS` returns (R282). -/
structure LodSignals where
  lTile : BitVec 3
  magnify : Bool
  distant : Bool
  lodFrac : BitVec 9
deriving DecidableEq, Repr

/-- `LOD_SIGNALS(lod, lodclamp)` (R282). -/
def State.lodSignals (m : State) (lod : BitVec 15) (clamped : Bool) : LodSignals :=
  let sh := Om.sharpenTexEn m.gs.om
  let de := Om.detailTexEn m.gs.om
  let noLevels := m.gs.misc.maxLevel == 0
  if lod.getLsbD 14 || clamped then ⟨7, false, true, 0xFF⟩
  else if lod < 32 then
    let v : BitVec 9 := if lod.toNat < m.gs.sca.minLevel.toNat then m.gs.sca.minLevel.setWidth 9 else lod.setWidth 9
    let lf : BitVec 9 :=
      if !sh && !de then (if noLevels then 0xFF else 0) else (v <<< 3) ||| (if sh then 0x100 else 0)
    ⟨0, true, noLevels, lf⟩
  else
    let lTile := log2t (lod.extractLsb' 5 8)
    let distant := noLevels || decide (lod &&& 0x6000 ≠ 0) || decide (m.gs.misc.maxLevel ≤ lTile)
    let lf : BitVec 9 :=
      if !sh && !de && distant then 0xFF else BitVec.ofNat 9 ((lod.toNat * 8 / 2 ^ lTile.toNat) % 256)
    ⟨lTile, false, distant, lf⟩

/-- The LOD signals of a pixel (R284): the neighbours are the next pixel and the next scanline, sums `wrap32`, also at span
ends, log entry 30. -/
def State.lodPixel (m : State) (cur : Coord2) (o : TexOperands) : LodSignals :=
  let nextx := m.tcDivAcc (o.s + o.dsinc) (o.t + o.dtinc) (o.w + o.dwinc)
  let nexty := m.tcDivAcc (o.s + m.gs.slopes.dsdy) (o.t + m.gs.slopes.dtdy) (o.w + m.gs.slopes.dwdy)
  let v := lodValue cur nextx nexty
  m.lodSignals v.1 v.2

/-- What `LOD_1CYCLE` returns (R284). -/
structure Lod1 where
  sss : BitVec 16
  sst : BitVec 16
  tile : BitVec 3
  lodFrac : BitVec 9
deriving DecidableEq, Repr

/-- The tile level of a pixel: `if distant then l_tile <- gs.max_level` (R284, R286). -/
def State.lodLevel (m : State) (g : LodSignals) : BitVec 3 := if g.distant then m.gs.misc.maxLevel else g.lTile

/-- `LOD_1CYCLE` (R284); tile numbers are taken `& 7`. -/
def State.lod1cycle (m : State) (cur : Coord2) (o : TexOperands) : Lod1 :=
  let sss := tcClamp17 cur.s
  let sst := tcClamp17 cur.t
  if m.gs.der.dolod then
    let g := m.lodPixel cur o
    let tile :=
      if Om.texLodEn m.gs.om then
        if !Om.detailTexEn m.gs.om || g.magnify then o.tilenum + m.lodLevel g else o.tilenum + m.lodLevel g + 1
      else o.tilenum
    ⟨sss, sst, tile, g.lodFrac⟩
  else ⟨sss, sst, o.tilenum, m.gs.sca.lodFrac⟩

/-- What `LOD_2CYCLE` returns (R286). -/
structure Lod2 where
  sss : BitVec 16
  sst : BitVec 16
  tile1 : BitVec 3
  tile2 : BitVec 3
  lodFrac : BitVec 9
deriving DecidableEq, Repr

/-- `LOD_2CYCLE` (R286). -/
def State.lod2cycle (m : State) (cur : Coord2) (o : TexOperands) : Lod2 :=
  let sss := tcClamp17 cur.s
  let sst := tcClamp17 cur.t
  if m.gs.der.dolod then
    let g := m.lodPixel cur o
    if Om.texLodEn m.gs.om then
      let base := o.tilenum + m.lodLevel g
      if !Om.detailTexEn m.gs.om then
        ⟨sss, sst, base,
          if g.distant || (!Om.sharpenTexEn m.gs.om && g.magnify) then base else base + 1, g.lodFrac⟩
      else
        ⟨sss, sst, if g.magnify then base else base + 1,
          if !g.distant && !g.magnify then base + 2 else base + 1, g.lodFrac⟩
    else ⟨sss, sst, o.tilenum, o.tilenum + 1, g.lodFrac⟩
  else ⟨sss, sst, o.tilenum, o.tilenum + 1, m.gs.sca.lodFrac⟩

/-- What `LOD_COPY` returns (R288). -/
structure LodC where
  sss : BitVec 16
  sst : BitVec 16
  tile : BitVec 3
deriving DecidableEq, Repr

/-- `LOD_COPY(sss, sst, tilenum)` (R288): "if `gs.om.tex_lod_en` is set in copy mode a model refuses",
log entry 19, safe. -/
def State.lodCopy (m : State) (cur : Coord2) (tilenum : BitVec 3) : Except Refusal LodC :=
  if Om.texLodEn m.gs.om then .error .copyLevelOfDetail
  else .ok ⟨tcClamp17 cur.s, tcClamp17 cur.t, tilenum⟩

/-! ### Copy-mode texel (R340) -/

/-- `COPY_TEXEL16(tilenum, sss, sst, p)` (R340): "There is no clamp in copy mode." -/
def State.copyTexel16 (m : State) (tilenum : BitVec 3) (sss sst : BitVec 16) (p : BitVec 2) :
    Except Refusal (BitVec 16) :=
  let t := m.tile tilenum
  let s1 := tileRelative (tcShift sss t.shiftS t.sh).1 t.sl
  let t1 := tileRelative (tcShift sst t.shiftT t.th).1 t.tl
  let s2 := (tcMask (texelIndex s1 + p.setWidth 12) t.maskS t.ms t.masksclamped).signExtend 13
  let t2 := (tcMask (texelIndex t1) t.maskT t.mt t.masktclamped).signExtend 13
  match formatCheck t with
  | .error e => .error e
  | .ok _ =>
    if Om.enTlut m.gs.om then .ok (m.tlutEntry (m.tlutIndex t s2 t2) p)
    else if t.size = 2 then .ok (m.tmem16 (addr16 t s2 t2))
    else .error .copyTexelSize

/-! ### The texture work of a pixel (R218 to R234) -/

/-- Three accumulators. -/
structure Coord3 where
  s : Word
  t : Word
  w : Word
deriving DecidableEq, Repr

/-- The coordinates of the next pixel. -/
def nextPixel (o : TexOperands) : Coord3 := ⟨o.s + o.dsinc, o.t + o.dtinc, o.w + o.dwinc⟩

/-- `NEXT_COORDS_1CYCLE` (R220). -/
def State.nextCoords1cycle (m : State) (o : TexOperands) : Coord3 :=
  let sp := m.spanAt (o.i.toNat + 1)
  if o.j = o.length ∧ 7 < o.length.toNat ∧ sp.validline then ⟨sp.attrs.s, sp.attrs.t, sp.attrs.w⟩ else nextPixel o

/-- The operands of the texture step at other coordinates. -/
def movedTo (o : TexOperands) (c : Coord3) : TexOperands := { o with s := c.s, t := c.t, w := c.w }

/-- Write `gs.texel0`. -/
def State.setTexel0 (m : State) (c : Color 9) : State := m.setCol { m.gs.col with texel0 := c }
/-- Write `gs.texel1`. -/
def State.setTexel1 (m : State) (c : Color 9) : State := m.setCol { m.gs.col with texel1 := c }
/-- Write `gs.nexttexel`. -/
def State.setNexttexel (m : State) (c : Color 9) : State := m.setCol { m.gs.col with nexttexel := c }
/-- Write `gs.lod_frac`. -/
def State.setLodFrac (m : State) (v : BitVec 9) : State := m.setSca { m.gs.sca with lodFrac := v }

/-- A stage that may refuse, followed by one that uses its result. -/
def andThen (x : Except Refusal α) (f : α → Except Refusal β) : Except Refusal β :=
  match x with
  | .ok v => f v
  | .error e => .error e

/-- The first texture of a 1-cycle pixel: `gs.lod_frac` and `gs.texel0` (R218). -/
def State.texel0Step1 (m : State) (o : TexOperands) : Except Refusal State :=
  let l := m.lod1cycle (m.tcDivAcc o.s o.t o.w) o
  let m := m.setLodFrac l.lodFrac
  andThen (m.texCycle m.gs.col.texel0 l.sss l.sst l.tile false) fun c => .ok (m.setTexel0 c)

/-- The second texture of a 1-cycle pixel, "sampled at the **next** pixel": `gs.texel1` (R218). -/
def State.texel1Step1 (m : State) (o : TexOperands) : Except Refusal State :=
  let n := m.nextCoords1cycle o
  let l := m.lod1cycle (m.tcDivAcc n.s n.t n.w) (movedTo o n)
  andThen (m.texCycle m.gs.col.texel1 l.sss l.sst l.tile false) fun c => .ok (m.setTexel1 c)

/-- `TEXTURE_1CYCLE` (R216, R218): variants 0 NOTEX, 1 NOTEXEL1, 2 COMPLETE of `gs.cycle1_mode`, log entry 31. -/
def State.texture1cycle (m : State) (o : TexOperands) : Except Refusal State :=
  andThen (if m.gs.der.cycle1Mode = 0 then .ok m else m.texel0Step1 o) fun m =>
    if m.gs.der.cycle1Mode = 2 then m.texel1Step1 o else .ok m

/-- The cycle-0 texture of a 2-cycle pixel: `gs.lod_frac` and `gs.texel0` (R234). -/
def State.texel0Step2 (m : State) (l : Lod2) : Except Refusal State :=
  let m := m.setLodFrac l.lodFrac
  andThen (m.texCycle m.gs.col.texel0 l.sss l.sst l.tile1 false) fun c => .ok (m.setTexel0 c)

/-- The cycle-1 texture, "same coordinates, second tile": `gs.texel1` from `prev = gs.texel0` (R234). -/
def State.texel1Step2 (m : State) (l : Lod2) : Except Refusal State :=
  andThen (m.texCycle m.gs.col.texel0 l.sss l.sst l.tile2 true) fun c => .ok (m.setTexel1 c)

/-- The next pixel's texture: `gs.nexttexel` (R234). -/
def State.nexttexelStep2 (m : State) (o : TexOperands) : Except Refusal State :=
  let n := nextPixel o
  let l := m.lod2cycle (m.tcDivAcc n.s n.t n.w) (movedTo o n)
  andThen (m.texCycle m.gs.col.nexttexel l.sss l.sst l.tile1 false) fun c => .ok (m.setNexttexel c)

/-- `TEXTURE_2CYCLE` (R234): variants 0 NOTEX, 1 NOTEXELNEXT, 2 NOTEXEL1, 3 COMPLETE of `gs.cycle2_mode`. -/
def State.texture2cycle (m : State) (o : TexOperands) : Except Refusal State :=
  let l := m.lod2cycle (m.tcDivAcc o.s o.t o.w) o
  andThen (if m.gs.der.cycle2Mode = 0 then .ok m else m.texel0Step2 l) fun m =>
    andThen (if 2 ≤ m.gs.der.cycle2Mode.toNat then m.texel1Step2 l else .ok m) fun m =>
      if m.gs.der.cycle2Mode = 3 then m.nexttexelStep2 o else .ok m

/-! ### Meanings -/

/-- The meaning of `TC_DIV_NONPERSP`; `sw` is ignored (R264). -/
def execTcDivNonpersp (ss st _sw : BitVec 16) (m : State) : Result :=
  .next (m.setRet (.coords19 (tcDivNonpersp ss st).s (tcDivNonpersp ss st).t))

/-- The meaning of `TC_DIV_PERSP`. -/
def execTcDivPersp (ss st sw : BitVec 16) (m : State) : Result :=
  .next (m.setRet (.coords19 (tcDivPersp ss st sw).s (tcDivPersp ss st sw).t))

/-- The meaning of `TC_CLAMP17`. -/
def execTcClamp17 (c : BitVec 19) (m : State) : Result := .next (m.setRet (.coord16 (tcClamp17 c)))

/-- The meaning of `TC_SHIFT`. -/
def execTcShift (c : BitVec 16) (shift : BitVec 4) (sh : BitVec 12) (m : State) : Result :=
  .next (m.setRet (.shifted (tcShift c shift sh).1 (tcShift c shift sh).2))

/-- The meaning of `TC_CLAMP`. -/
def execTcClamp (c : BitVec 17) (frac : BitVec 5) (max clampen : Bool) (clampdiff : BitVec 10) (m : State) : Result :=
  .next (m.setRet (.clamped (tcClamp c frac max clampen clampdiff).1 (tcClamp c frac max clampen clampdiff).2))

/-- The meaning of `TC_MASK`. -/
def execTcMask (c : BitVec 12) (mask : BitVec 4) (mirror : Bool) (maskclamped : BitVec 4) (m : State) : Result :=
  .next (m.setRet (.masked (tcMask c mask mirror maskclamped)))

/-- The meaning of `TC_MASK_COUPLED`. -/
def execTcMaskCoupled (c : BitVec 12) (mask : BitVec 4) (mirror : Bool) (maskclamped : BitVec 4) (m : State) : Result :=
  .next (m.setRet (.coupled (tcMaskCoupled c mask mirror maskclamped).1 (tcMaskCoupled c mask mirror maskclamped).2))

/-- The meaning of `TEX_CYCLE`. -/
def execTexCycle (prev : Color 9) (sss sst : BitVec 16) (tilenum : BitVec 3) (cycle : Bool) (m : State) : Result :=
  retOf m .texel (m.texCycle prev sss sst tilenum cycle)

/-- The meaning of `ARM_POINT`. -/
def execArmPoint (q0 : Color 9) (m : State) : Result := .next (m.setRet (.texel (armPoint q0)))

/-- The meaning of `ARM_POINT_CONVERT`. -/
def execArmPointConvert (prev : Color 9) (m : State) : Result := .next (m.setRet (.texel (armPointConvert prev)))

/-- The meaning of `ARM_LERP`. -/
def execArmLerp (q : Quad) (sfrac tfrac : BitVec 5) (s3odd yuv : Bool) (m : State) : Result :=
  .next (m.setRet (.texel (armLerp (Om.midTexel m.gs.om) q sfrac tfrac s3odd yuv)))

/-- The meaning of `ARM_LERP_CONVERT`. -/
def execArmLerpConvert (prev : Color 9) (q : Quad) (upper : Bool) (m : State) : Result :=
  .next (m.setRet (.texel (armLerpConvert prev q upper)))

/-- The meaning of `ARM_YUV1`. -/
def execArmYuv1 (prev q0 : Color 9) (convert : Bool) (m : State) : Result :=
  .next (m.setRet (.texel (m.armYuv1 prev q0 convert)))

/-- The meaning of `ARM_YUV4`. -/
def execArmYuv4 (prev : Color 9) (q : Quad) (convert upper upperRg : Bool) (m : State) : Result :=
  .next (m.setRet (.texel (m.armYuv4 prev q convert upper upperRg)))

/-- The meaning of `LOD_1CYCLE`. -/
def execLod1cycle (sss sst : BitVec 19) (o : TexOperands) (m : State) : Result :=
  let l := m.lod1cycle ⟨sss, sst⟩ o
  .next (m.setRet (.lod1 l.sss l.sst l.tile l.lodFrac))

/-- The meaning of `LOD_2CYCLE`. -/
def execLod2cycle (sss sst : BitVec 19) (o : TexOperands) (m : State) : Result :=
  let l := m.lod2cycle ⟨sss, sst⟩ o
  .next (m.setRet (.lod2 l.sss l.sst l.tile1 l.tile2 l.lodFrac))

/-- The meaning of `LOD_COPY`. -/
def execLodCopy (sss sst : BitVec 19) (tilenum : BitVec 3) (m : State) : Result :=
  retOf m (fun l => .lodCopy l.sss l.sst l.tile) (m.lodCopy ⟨sss, sst⟩ tilenum)

/-- The meaning of `COPY_TEXEL16`. -/
def execCopyTexel16 (tilenum : BitVec 3) (sss sst : BitVec 16) (p : BitVec 2) (m : State) : Result :=
  retOf m .texel16 (m.copyTexel16 tilenum sss sst p)

/-- The meaning of `TEXTURE_1CYCLE`. -/
def execTexture1cycle (o : TexOperands) (m : State) : Result := ofExcept (m.texture1cycle o)

/-- The meaning of `NEXT_COORDS_1CYCLE`. -/
def execNextCoords1cycle (o : TexOperands) (m : State) : Result :=
  let n := m.nextCoords1cycle o
  .next (m.setRet (.coords32 n.s n.t n.w))

/-- The meaning of `TEXTURE_2CYCLE`. -/
def execTexture2cycle (o : TexOperands) (m : State) : Result := ofExcept (m.texture2cycle o)

end Sys2Proof.Machine
end

