-- ==== Sys2Proof/Machine/ZBuffer.lean ====
section
/-! DEFINITION. The Z-buffer unit (`46_zbuffer.md` rules R420 to R440). -/

namespace Sys2Proof.Machine

/-- `Z_FAR`, the far plane (R7, R430). -/
def zFar : BitVec 18 := 0x3FFFF

/-- `Z_LOAD`: the Z word and its hidden bits (R430). -/
def State.zLoad (s : State) (zbcur : Word) : BitVec 16 × BitVec 2 := s.pairRd16 zbcur

/-- A blender shifter: a difference clamped to 0..4 (R434). -/
def shifter (a b : BitVec 4) : BitVec 3 := BitVec.ofInt 3 (clampInt ((a.toNat : Int) - b.toNat) 0 4)

/-- `SHIFTERS(dzpixenc, raw)` (R434). -/
def State.shifters (s : State) (dzpixenc raw : BitVec 4) : State :=
  let h := s.gs.hid
  let past := h.pastrawdzmem
  let h := if s.gs.der.realShiftersNeeded then
    { h with blshifta := shifter dzpixenc raw, blshiftb := shifter raw dzpixenc } else h
  let h := if s.gs.der.interpixelShiftersNeeded then
    { h with pastblshifta := shifter dzpixenc past, pastblshiftb := shifter past dzpixenc } else h
  s.setHid { h with pastrawdzmem := raw }

/-- `overflow` (R430, R432): the coverage sum reaches bit 3. -/
def cvgOverflow (memcvg : BitVec 3) (cvg : BitVec 4) : Bool := (memcvg.toNat + cvg.toNat).testBit 3

/-- The encoded delta-Z of a Z word (R423, R430). -/
def rawDzOf (w : BitVec 16 × BitVec 2) : BitVec 4 := w.1.extractLsb' 0 2 ++ w.2

/-- The stored tolerance and `force_coplanar` (R430). -/
def memTolerance (zval : BitVec 16) (raw : BitVec 4) : BitVec 16 × Bool :=
  let dzmem := dzDecompress raw
  let pf := zval.toNat / 8192
  if pf < 3 then
    if dzmem ≠ 0x8000 then (BitVec.ofNat 16 (if dzmem.toNat * 2 < 16 / 2 ^ pf then 16 / 2 ^ pf else dzmem.toNat * 2), false)
    else (0xFFFF, true)
  else (dzmem, false)

/-- The terms of one comparison (R430): `dznew = dznotshift << 3`, and `sz - dznew <= oz` is signed. -/
def zTerms (oz sz : BitVec 18) (dznotshift : BitVec 16) (coplanar overflow : Bool) : ZTerms :=
  let o : Int := oz.toNat
  let z : Int := sz.toNat
  let dznew : Int := dznotshift.toNat * 8
  { infront := decide (z < o)
    farther := coplanar || decide (o ≤ z + dznew)
    nearer := coplanar || decide (z - dznew ≤ o)
    max := oz == zFar
    overflow := overflow }

/-- Mode 0, opaque (R436). -/
def zOpaque (x : ZTerms) : Bool := x.max || (if x.overflow then x.infront else x.nearer)

/-- Mode 1, interpenetrating (R437): whether the pixel passes, and its coverage count. -/
def zInterpenetrating (x : ZTerms) (oz sz : BitVec 18) (dznotshift : BitVec 16) (cvg : BitVec 4) : Bool × BitVec 4 :=
  if !x.infront || !x.farther || !x.overflow then (zOpaque x, cvg)
  else
    let dzenc := dzCompress dznotshift
    let coeff : BitVec 4 := (oz >>> dzenc.toNat).setWidth 4 - (sz >>> dzenc.toNat).setWidth 4
    (true, BitVec.ofNat 4 (coeff.toNat * cvg.toNat / 8))

/-- Mode 2, transparent (R438). -/
def zTransparent (x : ZTerms) : Bool := x.infront || x.max

/-- Mode 3, decal (R439). -/
def zDecal (x : ZTerms) : Bool := x.farther && x.nearer && !x.max

/-- The arm that `gs.om.z_mode` selects (R146, R430). -/
def zArm (zMode : BitVec 2) (x : ZTerms) (oz sz : BitVec 18) (dznotshift : BitVec 16) (cvg : BitVec 4) : Bool × BitVec 4 :=
  match zMode.toNat with
  | 0 => (zOpaque x, cvg)
  | 1 => zInterpenetrating x oz sz dznotshift cvg
  | 2 => (zTransparent x, cvg)
  | _ => (zDecal x, cvg)

/-- What `ZCOMPARE` leaves and returns; `blend_en` and `prewrap` are flags of the state (R32). -/
structure ZResult where
  st : State
  pass : Bool
  cvg : BitVec 4
deriving DecidableEq, Repr

/-- `ZCOMPARE` with `z_compare_en = 0` (R432): "no memory access". -/
def State.zcompareDisabled (s : State) (o : ZOperands) : ZResult :=
  let s := s.shifters o.dzpixenc 0xF
  let overflow := cvgOverflow o.memcvg o.cvg
  ⟨s.setFlags { s.gs.flags with
      blendEn := Om.forceBlend s.gs.om || (!overflow && Om.antialiasEn s.gs.om)
      prewrap := overflow }, true, o.cvg⟩

/-- `ZCOMPARE` with `z_compare_en = 1` (R430). -/
def State.zcompareEnabled (s : State) (o : ZOperands) : ZResult :=
  let w := s.zLoad o.zbcur
  let oz := zDecompress w.1
  let raw := rawDzOf w
  let s := s.shifters o.dzpixenc raw
  let tol := memTolerance w.1 raw
  let dznotshift := dzcmp (o.dzpix ||| tol.1)
  let x := zTerms oz o.sz dznotshift tol.2 (cvgOverflow o.memcvg o.cvg)
  let r := zArm (Om.zMode s.gs.om) x oz o.sz dznotshift o.cvg
  ⟨s.setFlags { s.gs.flags with
      blendEn := Om.forceBlend s.gs.om || (!x.overflow && Om.antialiasEn s.gs.om && x.farther)
      prewrap := x.overflow }, r.1, r.2⟩

/-- `ZCOMPARE` (R430). -/
def State.zcompare (s : State) (o : ZOperands) : ZResult :=
  if Om.zCompareEn s.gs.om then s.zcompareEnabled o else s.zcompareDisabled o

/-- `Z_STORE(zbcur, sz, dzpixenc)` (R440). -/
def State.zStore (s : State) (zbcur : Word) (sz : BitVec 18) (dzpixenc : BitVec 4) : State :=
  s.pairWr16 zbcur (zCompress sz ||| (dzpixenc.extractLsb' 2 2).setWidth 16) (dzpixenc.extractLsb' 0 2)

/-! ### Meanings -/

/-- The meaning of `Z_LOAD`. -/
def execZLoad (zbcur : Word) (s : State) : Result := .next (s.setRet (.zword (s.zLoad zbcur).1 (s.zLoad zbcur).2))

/-- The meaning of `ZCOMPARE`. -/
def execZcompare (o : ZOperands) (s : State) : Result :=
  let r := s.zcompare o
  .next (r.st.setRet (.zpass r.pass r.cvg))

/-- The meaning of `ZCOMPARE_DISABLED`. -/
def execZcompareDisabled (o : ZOperands) (s : State) : Result :=
  let r := s.zcompareDisabled o
  .next (r.st.setRet (.zpass r.pass r.cvg))

/-- The meaning of `SHIFTERS`. -/
def execShifters (dzpixenc raw : BitVec 4) (s : State) : Result := .next (s.shifters dzpixenc raw)

/-- The meaning of `ZCOMPARE_OPAQUE`. -/
def execZcompareOpaque (x : ZTerms) (s : State) : Result := .next (s.setRet (.bool (zOpaque x)))

/-- The meaning of `ZCOMPARE_INTERPENETRATING`. -/
def execZcompareInterpenetrating (x : ZTerms) (oz sz : BitVec 18) (dznotshift : BitVec 16) (cvg : BitVec 4) (s : State) :
    Result :=
  .next (s.setRet (.zpass (zInterpenetrating x oz sz dznotshift cvg).1 (zInterpenetrating x oz sz dznotshift cvg).2))

/-- The meaning of `ZCOMPARE_TRANSPARENT`. -/
def execZcompareTransparent (x : ZTerms) (s : State) : Result := .next (s.setRet (.bool (zTransparent x)))

/-- The meaning of `ZCOMPARE_DECAL`. -/
def execZcompareDecal (x : ZTerms) (s : State) : Result := .next (s.setRet (.bool (zDecal x)))

/-- The meaning of `Z_STORE`. -/
def execZStore (zbcur : Word) (sz : BitVec 18) (dzpixenc : BitVec 4) (s : State) : Result :=
  .next (s.zStore zbcur sz dzpixenc)

end Sys2Proof.Machine
end

