-- ==== Sys2Proof/Machine/Renderers.lean ====
section
/-! DEFINITION. The span renderers (`41_span_renderers.md` rules R210 to R250). -/

namespace Sys2Proof.Machine

/-! ### `RGBAZ_CORRECT` (R226) -/

/-- One colour channel: `sr` after `>> 14`, the x and y slope of the coverage offset. -/
def correctChannel (full : Bool) (offx offy : BitVec 2) (v : BitVec 18) (cdx dy : BitVec 13) : BitVec 8 :=
  clamp9 <| BitVec.ofInt 9 <|
    if full then v.toInt >>> 2
    else (v.toInt * 4 + offx.toNat * cdx.toInt + offy.toNat * dy.toInt) >>> 4

/-- The depth: corrected, then saturated to the far plane on overflow and to 0 on underflow. -/
def correctDepth (full : Bool) (offx offy : BitVec 2) (sz cdz dzdy : BitVec 22) : BitVec 18 :=
  let cz : Int := if full then (sz.toNat : Int) >>> 3
    else ((sz.toNat : Int) * 4 + offx.toNat * cdz.toInt + offy.toNat * dzdy.toInt) >>> 5
  match ((cz >>> 17) % 4).toNat with
  | 0 => BitVec.ofInt 18 cz
  | 1 => BitVec.ofInt 18 cz
  | 2 => 0x3FFFF
  | _ => 0

/-- The shade colour that `RGBAZ_CORRECT` writes. -/
def State.correctShade (s : State) (o : CorrectOperands) : Color 8 :=
  let p := s.gs.slopes
  let ch := correctChannel (decide (o.cvg = 8)) o.offx o.offy
  ⟨ch o.sr p.cdr p.drdy, ch o.sg p.cdg p.dgdy, ch o.sb p.cdb p.dbdy, ch o.sa p.cda p.dady⟩

/-- `RGBAZ_CORRECT` (R226): the machine with `gs.shade` written, and the 18-bit depth. -/
def State.rgbazCorrect (s : State) (o : CorrectOperands) : State × BitVec 18 :=
  (s.setCol { s.gs.col with shade := s.correctShade o },
    correctDepth (decide (o.cvg = 8)) o.offx o.offy o.sz o.cdz o.dzdy)

/-! ### The scanline prologue (R212) -/

/-- What the prologue fixes for one draw. -/
structure RenderSetup where
  tilenum : BitVec 3
  flip : Bool
  inc : Attrs
  dzpix : BitVec 16
  cdz : BitVec 22
  dzdy : BitVec 22
  dzpixenc : BitVec 4
  zb : Word
deriving DecidableEq, Repr

/-- The per-pixel increments, negated when `flip` is 0 (R212). -/
def State.increments (s : State) (flip : Bool) : Attrs :=
  let p := s.gs.slopes
  let inc : Attrs := ⟨p.dr, p.dg, p.db, p.da, p.ds, p.dt, p.dw, p.dz⟩
  if flip then inc else inc.map (fun v => -v)

/-- The prologue before the scanline loop (R212). -/
def State.renderSetup (s : State) (tilenum : BitVec 3) (flip : Bool) : RenderSetup :=
  let inc := s.increments flip
  let prim := Om.zSourceSel s.gs.om
  let dzpix := if prim then s.gs.misc.primitiveDeltaZ else s.gs.slopes.dzpix
  { tilenum := tilenum
    flip := flip
    inc := if prim then { inc with z := 0 } else inc
    dzpix := dzpix
    cdz := if prim then 0 else s.gs.slopes.cdz
    dzdy := if prim then 0 else s.gs.slopes.dzdy
    dzpixenc := dzCompress dzpix
    zb := s.gs.img.zbAddress.setWidth 32 >>> 1 }

/-- `xinc` as a word. -/
def xStep (flip : Bool) : Word := if flip then 1 else -1

/-- `length` of a span: negative when there is nothing to draw (R212). -/
def spanLength (sp : Span) (flip : Bool) : Int :=
  if flip then (sp.lx.toNat : Int) - sp.rx.toNat else (sp.rx.toNat : Int) - sp.lx.toNat

/-- The "scdiff" of a span (R212), before its mask. -/
def scDiff (sp : Span) (flip : Bool) : Int :=
  if flip then (sp.rx.toNat : Int) - sp.unscrx.toInt else sp.unscrx.toInt - sp.rx.toNat

/-- What a renderer carries from one pixel to the next. -/
structure PixelVars where
  acc : Attrs
  x : BitVec 12
  curpixel : Word
  zbcur : Word
  cdith : BitVec 15
  adith : BitVec 3
  st : State
deriving DecidableEq, Repr

/-- Advance the accumulators and the position (R214). -/
def PixelVars.advance (v : PixelVars) (p : RenderSetup) : PixelVars := { v with
  acc := v.acc.add p.inc
  x := v.x + (xStep p.flip).setWidth 12
  curpixel := v.curpixel + xStep p.flip
  zbcur := v.zbcur + xStep p.flip }

/-- The texture operands of a pixel. -/
def PixelVars.texOperands (v : PixelVars) (p : RenderSetup) (i j length : Int) : TexOperands where
  s := v.acc.s
  t := v.acc.t
  w := v.acc.w
  dsinc := p.inc.s
  dtinc := p.inc.t
  dwinc := p.inc.w
  tilenum := p.tilenum
  i := BitVec.ofInt 10 i
  j := BitVec.ofInt 12 j
  length := BitVec.ofInt 12 length

/-- The operands of `RGBAZ_CORRECT` (R214): `r >> 14`, ..., `(z >> 10) & 0x3FFFFF`. -/
def PixelVars.correctOperands (v : PixelVars) (p : RenderSetup) (e : CvgEntry) : CorrectOperands where
  offx := e.xoff
  offy := e.yoff
  sr := v.acc.r.extractLsb' 14 18
  sg := v.acc.g.extractLsb' 14 18
  sb := v.acc.b.extractLsb' 14 18
  sa := v.acc.a.extractLsb' 14 18
  sz := v.acc.z.extractLsb' 10 22
  cvg := e.cvg
  cdz := p.cdz
  dzdy := p.dzdy

/-- "`gs.seq.i, j, x` track the loop variables" (R212): `j` and `x` are written at the start of a pixel's body, in copy mode of a
group's, and the last advance of `x` after a span shows nowhere, DEDUCED, log entry 4, unsafe. `gs.seq.cycle` starts at 0 in every
body: R30 names no writer, DEDUCED, log entry 23, unsafe. -/
def State.trackPixel (s : State) (j : Int) (x : BitVec 12) : State :=
  s.setSeq { s.gs.seq with j := BitVec.ofInt 12 j, x := x, cycle := 0 }

/-- Steps 6 to 8 of a pixel (R214, R232): compare, and if it passes blend; if the blender says so write colour and Z. -/
def State.finishPixel (s : State) (p : RenderSetup) (v : PixelVars) (sz : BitVec 18) (cvg : BitVec 4) (memcvg : BitVec 3)
    (blend : State → BlendOperands → Blend) (fail : State → State) : State :=
  let z := s.zcompare ⟨v.zbcur, sz, p.dzpix, p.dzpixenc, cvg, memcvg⟩
  let s := z.st
  if z.pass then
    let f := s.gs.flags
    let b := blend s ⟨v.cdith, f.blendEn, f.prewrap, z.cvg, f.cvbit⟩
    if b.written then
      let s := b.st.fbWrite ⟨v.curpixel, b.rgb.r, b.rgb.g, b.rgb.b, f.blendEn, z.cvg, memcvg⟩
      if Om.zUpdateEn s.gs.om then s.zStore v.zbcur sz p.dzpixenc else s
    else b.st
  else fail s

/-- Steps 1 to 4 of a pixel, common to both cycle modes: coverage, texture, correction, dither. The coverage bit that the lookup
returns is written here (`(.., curpixel_cvbit) <- CVG_LOOKUP(..)`, R214, R232), since the lookup writes no state (R462). -/
def PixelVars.front (v : PixelVars) (p : RenderSetup) (i j length : Int)
    (texture : State → TexOperands → Except Refusal State) : Except Refusal (PixelVars × CvgEntry × BitVec 18) :=
  let s := v.st.trackPixel j v.x
  let e := cvlut (s.cvgAt v.x.toNat)
  let s := s.setFlags { s.gs.flags with cvbit := e.cvbit }
  andThen (texture s (v.texOperands p i j length)) fun s =>
    let c := s.rgbazCorrect (v.correctOperands p e)
    let d := c.1.ditherNoise v.x (BitVec.ofInt 12 i) v.cdith v.adith
    .ok ({ v with st := d.1, cdith := d.2.1, adith := d.2.2 }, e, c.2)

/-- `PIXEL_1CYCLE` (R214). -/
def pixel1cycle (p : RenderSetup) (i length j : Int) (v : PixelVars) : Except Refusal PixelVars :=
  andThen (v.front p i j length State.texture1cycle) fun (v, e, sz) =>
    let c := v.st.combine1cycle v.adith e.cvg
    let m := c.1.fbPixel v.curpixel
    let s := c.1.latchPixel m false
    let s := s.finishPixel p v sz c.2 m.memcvg State.blend1cycle id
    .ok ({ v with st := s }.advance p)

/-- `PIXEL_2CYCLE` (R232): the read writes `gs.pre_memory`, a pixel that fails the Z test restores `gs.memory`. -/
def pixel2cycle (p : RenderSetup) (i length j : Int) (v : PixelVars) : Except Refusal PixelVars :=
  andThen (v.front p i j length State.texture2cycle) fun (v, e, sz) =>
    let c := v.st.combine2cycle v.adith e.cvg
    let m := c.st.fbPixel v.curpixel
    let s := c.st.latchPixel m true
    let s := s.finishPixel p v sz c.cvg m.memcvg (fun s o => s.blend2cycle o c.acalpha) State.restoreMemory
    .ok ({ v with st := s }.advance p)

/-- What the scanline loop carries: the machine and the dither values, which start at (7, 0) (R212). -/
structure LineVars where
  st : State
  cdith : BitVec 15
  adith : BitVec 3
deriving DecidableEq, Repr

/-- The pixel variables at the start of scanline `i`, after `CVG_BUILD` and the one-time "scdiff" correction (R212). -/
def LineVars.begin (l : LineVars) (p : RenderSetup) (i : Int) : PixelVars :=
  let s := l.st
  let sp := s.spanAt i
  let acc := { sp.attrs with z := if Om.zSourceSel s.gs.om then s.gs.misc.primitiveZ else sp.attrs.z }
  let curpixel : Word := s.gs.img.fbWidth.setWidth 32 * BitVec.ofInt 32 i + sp.rx.setWidth 32
  let diff : Word := BitVec.ofInt 32 (scDiff sp p.flip % 4096)
  { acc := acc.zip (fun a d => a + d * diff) p.inc
    x := sp.rx
    curpixel := curpixel
    zbcur := p.zb + curpixel
    cdith := l.cdith
    adith := l.adith
    st := s.cvgBuild i p.flip }

/-- One scanline of the 1-cycle and 2-cycle renderers (R212), with the pixel body of the mode. -/
def renderLine (pixel : RenderSetup → Int → Int → Int → PixelVars → Except Refusal PixelVars) (p : RenderSetup) (i : Int)
    (l : LineVars) : Except Refusal LineVars :=
  let l := { l with st := l.st.setSeq { l.st.gs.seq with i := BitVec.ofInt 10 i } }
  let sp := l.st.spanAt i
  if sp.validline then
    let length := spanLength sp p.flip
    andThen (forUpE (pixel p i length) (count 0 length) 0 (l.begin p i)) fun v => .ok ⟨v.st, v.cdith, v.adith⟩
  else .ok l

/-- The scanline loop `for i = start to end` (R212); both bounds are signed, an end below the start draws nothing. -/
def State.renderLines (s : State) (pixel : RenderSetup → Int → Int → Int → PixelVars → Except Refusal PixelVars)
    (start stop : BitVec 12) (tilenum : BitVec 3) (flip : Bool) : Except Refusal State :=
  let p := s.renderSetup tilenum flip
  andThen (forUpE (renderLine pixel p) (count start.toInt stop.toInt) start.toInt ⟨s, 7, 0⟩) fun l => .ok l.st

/-- `RENDER_1CYCLE` (R212, R214). -/
def State.render1cycle (s : State) (start stop : BitVec 12) (tilenum : BitVec 3) (flip : Bool) : Except Refusal State :=
  s.renderLines pixel1cycle start stop tilenum flip

/-- `RENDER_2CYCLE` (R230, R232). -/
def State.render2cycle (s : State) (start stop : BitVec 12) (tilenum : BitVec 3) (flip : Bool) : Except Refusal State :=
  s.renderLines pixel2cycle start stop tilenum flip

/-! ### The copy renderer (R240) -/

/-- What the copy renderer carries along a scanline. -/
structure CopyVars where
  c : Coord3
  x : BitVec 12
  st : State
deriving DecidableEq, Repr

/-- One pixel of a copy word: `p` in 0..3, at `x + p * xinc`, if it is inside the span (R240). It writes no position: R240's
loop variables `j` and `x` are the group's, log entry 4. -/
def copyPixel (flip : Bool) (i length j : Int) (x : BitVec 12) (l : LodC) (p : Int) (s : State) : Except Refusal State :=
  let px : BitVec 12 := x + (xStep flip).setWidth 12 * BitVec.ofInt 12 p
  if j + p ≤ length then
    andThen (s.copyTexel16 l.tile l.sss l.sst (BitVec.ofInt 2 p)) fun texel =>
      if !Om.alphaCompareEn s.gs.om || texel.getLsbD 0 then
        .ok (s.pairWr16 (s.fbIndex16 (s.gs.img.fbWidth.setWidth 32 * BitVec.ofInt 32 i + px.setWidth 32)) texel
          (if texel.getLsbD 0 then 3 else 0))
      else .ok s
  else .ok s

/-- One group of up to four pixels; `g` counts the groups, `j = 4 * g` (R240). `gs.seq.j` and `gs.seq.x` follow R240's loop
variables, so they are the group's `j`, in steps of 4, and its `x`, not a pixel's `j + p` and `px` ("The position advances
exactly as the loops ... say", R30), DEDUCED, log entry 4, unsafe. -/
def copyGroup (inc : Attrs) (tilenum : BitVec 3) (flip : Bool) (i length g : Int) (v : CopyVars) :
    Except Refusal CopyVars :=
  let s := v.st.trackPixel (4 * g) v.x
  andThen (s.lodCopy (s.tcDivAcc v.c.s v.c.t v.c.w) tilenum) fun l =>
    andThen (forUpE (copyPixel flip i length (4 * g) v.x l) 4 0 s) fun s =>
      .ok ⟨⟨v.c.s + inc.s, v.c.t + inc.t, v.c.w + inc.w⟩, v.x + 4 * (xStep flip).setWidth 12, s⟩

/-- One scanline of the copy renderer (R240). -/
def copyLine (inc : Attrs) (tilenum : BitVec 3) (flip : Bool) (i : Int) (s : State) : Except Refusal State :=
  let s := s.setSeq { s.gs.seq with i := BitVec.ofInt 10 i }
  let sp := s.spanAt i
  if sp.validline then
    let length := spanLength sp flip
    andThen (forUpE (copyGroup inc tilenum flip i length) (count 0 (length / 4)) 0
      ⟨⟨sp.attrs.s, sp.attrs.t, sp.attrs.w⟩, sp.rx, s⟩) fun v => .ok v.st
  else .ok s

/-- `RENDER_COPY` (R240): the crash test, then the assertion, then the spans. -/
def State.renderCopy (s : State) (start stop : BitVec 12) (tilenum : BitVec 3) (flip : Bool) : Except Refusal State :=
  if s.gs.img.fbSize = 3 then .ok s.raiseCrash
  else if s.gs.img.fbSize = 2 then
    forUpE (copyLine (s.increments flip) tilenum flip) (count start.toInt stop.toInt) start.toInt s
  else .error .copyFramebufferSize

/-! ### The fill renderer (R250) -/

/-- One pixel of the fill renderer: "every covered pixel". -/
def fillPixel (flip : Bool) (i : Int) (sp : Span) (j : Int) (s : State) : State :=
  let x : BitVec 12 := sp.rx + (xStep flip).setWidth 12 * BitVec.ofInt 12 j
  let curpixel : Word := s.gs.img.fbWidth.setWidth 32 * BitVec.ofInt 32 i + x.setWidth 32
  let s := s.trackPixel j x
  if (cvlut (s.cvgAt x.toNat)).cvg = 0 then s else s.fbFill curpixel

/-- One scanline of the fill renderer. -/
def fillLine (flip : Bool) (i : Int) (s : State) : State :=
  let s := s.setSeq { s.gs.seq with i := BitVec.ofInt 10 i }
  let sp := s.spanAt i
  if sp.validline then forUp (fillPixel flip i sp) (count 0 (spanLength sp flip)) 0 (s.cvgBuild i flip) else s

/-- `RENDER_FILL` (R250): both configuration checks once, on entry, FILL_4BPP before FILL_Z (R582). -/
def State.renderFill (s : State) (start stop : BitVec 12) (flip : Bool) : State :=
  if s.gs.img.fbSize = 0 then s.raiseCrash
  else if Om.zCompareEn s.gs.om || Om.zUpdateEn s.gs.om then s.raiseCrash
  else forUp (fillLine flip) (count start.toInt stop.toInt) start.toInt s

/-! ### Dispatch (R194) -/

/-- `RENDER_SPANS(start, end, tilenum, flip)`: the renderer that `gs.om.cycle_type` selects. A 2-bit field has no fifth
value, so `Crash(UNKNOWN_CYCLE_TYPE)` cannot arise (R162). -/
def State.renderSpans (s : State) (start stop : BitVec 12) (tilenum : BitVec 3) (flip : Bool) : Except Refusal State :=
  match (Om.cycleType s.gs.om).toNat with
  | 0 => s.render1cycle start stop tilenum flip
  | 1 => s.render2cycle start stop tilenum flip
  | 2 => s.renderCopy start stop tilenum flip
  | _ => .ok (s.renderFill start stop flip)

/-! ### Meanings -/

/-- The meaning of `RGBAZ_CORRECT`. -/
def execRgbazCorrect (o : CorrectOperands) (s : State) : Result :=
  .next ((s.rgbazCorrect o).1.setRet (.depth (s.rgbazCorrect o).2))

/-- The meaning of `RENDER_1CYCLE`. -/
def execRender1cycle (start stop : BitVec 12) (tilenum : BitVec 3) (flip : Bool) (s : State) : Result :=
  ofExcept (s.render1cycle start stop tilenum flip)

/-- The meaning of `RENDER_2CYCLE`. -/
def execRender2cycle (start stop : BitVec 12) (tilenum : BitVec 3) (flip : Bool) (s : State) : Result :=
  ofExcept (s.render2cycle start stop tilenum flip)

/-- The meaning of `RENDER_COPY`. -/
def execRenderCopy (start stop : BitVec 12) (tilenum : BitVec 3) (flip : Bool) (s : State) : Result :=
  ofExcept (s.renderCopy start stop tilenum flip)

/-- The meaning of `RENDER_FILL`. -/
def execRenderFill (start stop : BitVec 12) (flip : Bool) (s : State) : Result := .next (s.renderFill start stop flip)

/-- The meaning of `RENDER_SPANS`. -/
def execRenderSpans (start stop : BitVec 12) (tilenum : BitVec 3) (flip : Bool) (s : State) : Result :=
  ofExcept (s.renderSpans start stop tilenum flip)

end Sys2Proof.Machine
end

