-- ==== Sys2Proof/Machine/Draw.lean ====
section
/-! DEFINITION. `DRAW_TRI` (`40_edge_walker.md` rule R172) and the rectangles (`30_encoding.md` rule R150). -/

namespace Sys2Proof.Machine

/-- The start of `DRAW_TRI` (R172): the phase, then `if gs.stale then DEDUCE_DERIVATIVES ; gs.stale <- 0`. -/
def State.drawBegin (s : State) : State :=
  let s := s.setPhase .edgewalk
  if s.gs.stale then s.deduceDerivatives else s

/-- `DRAW_TRI` (R172). A crash has already set the phase to IDLE (R572). -/
def State.drawTri (s : State) (c : TriCmd) : Except Refusal State :=
  let s := (s.drawBegin.edgewalk c).setPhase .render
  let l := renderLimits c s
  andThen (s.renderSpans l.1 l.2 c.tile c.flip) fun s => .ok (s.setPhase .idle)

/-- "if gs.om.cycle_type in {2 (copy), 3 (fill)} then YL <- YL | 3" (R150). -/
def rectYl (om : BitVec 64) (yl : BitVec 12) : BitVec 12 :=
  if Om.cycleType om = 2 ∨ Om.cycleType om = 3 then yl ||| 3 else yl

/-- A coefficient group of zeros. -/
def zeroCoeff : Coeff := ⟨0, 0, 0, 0⟩

/-- The expansion of `FILL_RECT XL, YL, XH, YH` (R150), "performed by the external dispatcher at the moment the rectangle
is issued (it reads `gs.om.cycle_type`)". -/
def fillRectTri (om : BitVec 64) (xl yl xh yh : BitVec 12) : TriCmd where
  shade := false
  texture := false
  zbuf := false
  flip := true
  level := 0
  tile := 0
  yl := (rectYl om yl).setWidth 14
  ym := (rectYl om yl).setWidth 14
  yh := yh.setWidth 14
  xl := xl.setWidth 32 <<< 14
  xh := xh.setWidth 32 <<< 14
  xm := xl.setWidth 32 <<< 14
  dxldy := 0
  dxhdy := 0
  dxmdy := 0
  r := zeroCoeff
  g := zeroCoeff
  b := zeroCoeff
  a := zeroCoeff
  s := zeroCoeff
  t := zeroCoeff
  w := zeroCoeff
  z := zeroCoeff

/-- The expansion of `TEX_RECT XL, YL, TILE, XH, YH, S, T, DSDX, DTDY` (R150). -/
def texRectTri (om : BitVec 64) (xl yl : BitVec 12) (tile : BitVec 3) (xh yh : BitVec 12) (s t dsdx dtdy : BitVec 16) :
    TriCmd :=
  { fillRectTri om xl yl xh yh with
    texture := true
    tile := tile
    s := ⟨s ++ 0#16, dsdx.signExtend 32 <<< 11, 0, 0⟩
    t := ⟨t ++ 0#16, 0, dtdy.signExtend 32 <<< 11, dtdy.signExtend 32 <<< 11⟩ }

/-- The meaning of `DRAW_TRI`. -/
def execDrawTri (c : TriCmd) (s : State) : Result := ofExcept (s.drawTri c)

/-- The meaning of `FILL_RECT`: its one `DRAW_TRI`. -/
def execFillRect (xl yl xh yh : BitVec 12) (s : State) : Result := ofExcept (s.drawTri (fillRectTri s.gs.om xl yl xh yh))

/-- The meaning of `TEX_RECT`: its one `DRAW_TRI`. -/
def execTexRect (xl yl : BitVec 12) (tile : BitVec 3) (xh yh : BitVec 12) (s t dsdx dtdy : BitVec 16) (m : State) :
    Result :=
  ofExcept (m.drawTri (texRectTri m.gs.om xl yl tile xh yh s t dsdx dtdy))

end Sys2Proof.Machine
end

