-- ==== Sys2Proof/Machine/Tiles.lean ====
section
/-! DEFINITION. The tile commands (`49_config_commands.md` rules R540 to R546). -/

namespace Sys2Proof.Machine

/-- `min(mask, 10)` (R546). -/
def maskClamped (m : BitVec 4) : BitVec 4 := if m < 10 then m else 10

/-- The clamp-difference of one axis (R546): `((hi >> 2) - (lo >> 2)) & 0x3FF`. -/
def clampDiff (lo hi : BitVec 12) : BitVec 10 := hi.extractLsb' 2 10 - lo.extractLsb' 2 10

/-- `RECOMPUTE_TILE(T)` (R546): the eight derived fields. -/
def Tile.recompute (t : Tile) : Tile := { t with
  clampdiffs := clampDiff t.sl t.sh
  clampdifft := clampDiff t.tl t.th
  clampens := t.cs || t.maskS == 0
  clampent := t.ct || t.maskT == 0
  masksclamped := maskClamped t.maskS
  masktclamped := maskClamped t.maskT
  notlutswitch := t.format ++ t.size
  tlutswitch := t.size ++ ((t.format + 2).setWidth 2 : BitVec 2) }

/-- The fields `SET_TILE` writes, from its record (R540). -/
def Tile.describe (t : Tile) (c : TileCmd) : Tile := { t with
  format := c.format, size := c.size, line := c.line, tmem := c.tmem, palette := c.palette
  ct := c.ct, mt := c.mt, maskT := c.maskT, shiftT := c.shiftT
  cs := c.cs, ms := c.ms, maskS := c.maskS, shiftS := c.shiftS }

/-- The tile rectangle, which `SET_TILE_SIZE` and `LOAD_TILE` write (R542, R544). -/
def Tile.bounds (t : Tile) (sl tl sh th : BitVec 12) : Tile := { t with sl := sl, tl := tl, sh := sh, th := th }

/-- What the transfer of `LOAD_TILE` may depend on: `(gs, ram, cmd)` (R544), the size of RDRAM, and the present TMEM, so
that the spec's reference instance, the identity, is one of its values (DESIGN CHOICE, log entry 10). -/
structure LoadTileInput where
  gs : GraphicsState
  ram : List Host.Cell
  ramExtra : Nat
  tmem : List Host.Cell
  tile : BitVec 3
  sl : BitVec 12
  tl : BitVec 12
  sh : BitVec 12
  th : BitVec 12
deriving DecidableEq, Repr

/-- The transfer of `LOAD_TILE`, `load_tile_tmem : (gs, ram, cmd) -> tmem'` (R544, D52), as the byte TMEM then holds at each
address. OPEN parameter, log entry 10. Safe: it has no body, so nothing can be proved of one transfer alone. -/
opaque Config.loadTileTmem : LoadTileInput → BitVec 12 → Byte

/-- A whole TMEM in canonical form from its bytes. -/
def tmemOf (f : BitVec 12 → Byte) : List Host.Cell :=
  ((List.range Config.tmemBytes).map (fun a => (a, f (BitVec.ofNat 12 a)))).filter (fun c => decide (c.2 ≠ unlistedByte))

/-- The meaning of `SET_TILE` (R540). -/
def execSetTile (c : TileCmd) (s : State) : Result :=
  .next (s.putTile c.tile (((s.tile c.tile).describe c).recompute))

/-- The meaning of `SET_TILE_SIZE` (R542). -/
def execSetTileSize (tile : BitVec 3) (sl tl sh th : BitVec 12) (s : State) : Result :=
  .next (s.putTile tile (((s.tile tile).bounds sl tl sh th).recompute))

/-- The meaning of `LOAD_TILE` (R544). "No hidden-store access." -/
def execLoadTile (tile : BitVec 3) (sl tl sh th : BitVec 12) (s : State) : Result :=
  .next ((s.putTile tile (((s.tile tile).bounds sl tl sh th).recompute)).setTmem
    (tmemOf (Config.loadTileTmem ⟨s.gs, s.ram, s.ramExtra, s.tmem, tile, sl, tl, sh, th⟩)))

/-- The meaning of `RECOMPUTE_TILE` (R546). -/
def execRecomputeTile (tile : BitVec 3) (s : State) : Result :=
  .next (s.putTile tile (s.tile tile).recompute)

end Sys2Proof.Machine
end

