-- ==== Sys2Proof/Machine/Dispatch.lean ====
section
/-! DEFINITION. One arm per operation: the call of its meaning. -/

namespace Sys2Proof.Machine

def exec (i : Instr) (s : State) : Host.Outcome State Fault Refusal :=
  match i with
  | .drawTri cmd => Sys2Proof.Machine.execDrawTri cmd s
  | .setKeyGb widthG widthB centerG scaleG centerB scaleB => Sys2Proof.Machine.execSetKeyGb widthG widthB centerG scaleG centerB scaleB s
  | .setKeyR widthR centerR scaleR => Sys2Proof.Machine.execSetKeyR widthR centerR scaleR s
  | .setConvert k0 k1 k2 k3 k4 k5 => Sys2Proof.Machine.execSetConvert k0 k1 k2 k3 k4 k5 s
  | .setScissor xh yh xl yl field odd => Sys2Proof.Machine.execSetScissor xh yh xl yl field odd s
  | .setPrimDepth z dz => Sys2Proof.Machine.execSetPrimDepth z dz s
  | .setOtherModes om => Sys2Proof.Machine.execSetOtherModes om s
  | .setTileSize tile sl tl sh th => Sys2Proof.Machine.execSetTileSize tile sl tl sh th s
  | .loadTile tile sl tl sh th => Sys2Proof.Machine.execLoadTile tile sl tl sh th s
  | .setTile cmd => Sys2Proof.Machine.execSetTile cmd s
  | .setFillColor color => Sys2Proof.Machine.execSetFillColor color s
  | .setFogColor r g b a => Sys2Proof.Machine.execSetFogColor r g b a s
  | .setBlendColor r g b a => Sys2Proof.Machine.execSetBlendColor r g b a s
  | .setPrimColor minLevel primLodFrac r g b a => Sys2Proof.Machine.execSetPrimColor minLevel primLodFrac r g b a s
  | .setEnvColor r g b a => Sys2Proof.Machine.execSetEnvColor r g b a s
  | .setCombineMode cc => Sys2Proof.Machine.execSetCombineMode cc s
  | .setZImage address => Sys2Proof.Machine.execSetZImage address s
  | .setColorImage format size width address => Sys2Proof.Machine.execSetColorImage format size width address s
  | .fillRect xl yl xh yh => Sys2Proof.Machine.execFillRect xl yl xh yh s
  | .texRect xl yl tile xh yh sc t dsdx dtdy => Sys2Proof.Machine.execTexRect xl yl tile xh yh sc t dsdx dtdy s
  | .deduceDerivatives => Sys2Proof.Machine.execDeduceDerivatives s
  | .edgewalk cmd => Sys2Proof.Machine.execEdgewalk cmd s
  | .renderSpans start stop tilenum flip => Sys2Proof.Machine.execRenderSpans start stop tilenum flip s
  | .render1cycle start stop tilenum flip => Sys2Proof.Machine.execRender1cycle start stop tilenum flip s
  | .render2cycle start stop tilenum flip => Sys2Proof.Machine.execRender2cycle start stop tilenum flip s
  | .renderCopy start stop tilenum flip => Sys2Proof.Machine.execRenderCopy start stop tilenum flip s
  | .renderFill start stop flip => Sys2Proof.Machine.execRenderFill start stop flip s
  | .texture1cycle o => Sys2Proof.Machine.execTexture1cycle o s
  | .nextCoords1cycle o => Sys2Proof.Machine.execNextCoords1cycle o s
  | .texture2cycle o => Sys2Proof.Machine.execTexture2cycle o s
  | .rgbazCorrect o => Sys2Proof.Machine.execRgbazCorrect o s
  | .cvgBuild line flip => Sys2Proof.Machine.execCvgBuild line flip s
  | .cvgLookup m => Sys2Proof.Machine.execCvgLookup m s
  | .tcDivNonpersp ss st sw => Sys2Proof.Machine.execTcDivNonpersp ss st sw s
  | .tcDivPersp ss st sw => Sys2Proof.Machine.execTcDivPersp ss st sw s
  | .tcClamp17 c => Sys2Proof.Machine.execTcClamp17 c s
  | .tcShift c shift sh => Sys2Proof.Machine.execTcShift c shift sh s
  | .tcClamp c frac max clampen clampdiff => Sys2Proof.Machine.execTcClamp c frac max clampen clampdiff s
  | .tcMask c mask mirror maskclamped => Sys2Proof.Machine.execTcMask c mask mirror maskclamped s
  | .tcMaskCoupled c mask mirror maskclamped => Sys2Proof.Machine.execTcMaskCoupled c mask mirror maskclamped s
  | .texCycle prev sss sst tilenum cycle => Sys2Proof.Machine.execTexCycle prev sss sst tilenum cycle s
  | .armPoint q0 => Sys2Proof.Machine.execArmPoint q0 s
  | .armPointConvert prev => Sys2Proof.Machine.execArmPointConvert prev s
  | .armLerp q sfrac tfrac s3odd yuv => Sys2Proof.Machine.execArmLerp q sfrac tfrac s3odd yuv s
  | .armLerpConvert prev q upper => Sys2Proof.Machine.execArmLerpConvert prev q upper s
  | .armYuv1 prev q0 convert => Sys2Proof.Machine.execArmYuv1 prev q0 convert s
  | .armYuv4 prev q convert upper upperRg => Sys2Proof.Machine.execArmYuv4 prev q convert upper upperRg s
  | .lod1cycle sss sst o => Sys2Proof.Machine.execLod1cycle sss sst o s
  | .lod2cycle sss sst o => Sys2Proof.Machine.execLod2cycle sss sst o s
  | .lodCopy sss sst tilenum => Sys2Proof.Machine.execLodCopy sss sst tilenum s
  | .tmemFetch1 tilenum sc t => Sys2Proof.Machine.execTmemFetch1 tilenum sc t s
  | .tmemFetchQuad tilenum sc sdiff t tdiff upper => Sys2Proof.Machine.execTmemFetchQuad tilenum sc sdiff t tdiff upper s
  | .tmemFetchRgba4 tilenum sc t => Sys2Proof.Machine.execTmemFetchRgba4 tilenum sc t s
  | .tmemFetchRgba8 tilenum sc t => Sys2Proof.Machine.execTmemFetchRgba8 tilenum sc t s
  | .tmemFetchRgba16 tilenum sc t => Sys2Proof.Machine.execTmemFetchRgba16 tilenum sc t s
  | .tmemFetchRgba32 tilenum sc t => Sys2Proof.Machine.execTmemFetchRgba32 tilenum sc t s
  | .tmemFetchYuv4 tilenum sc t => Sys2Proof.Machine.execTmemFetchYuv4 tilenum sc t s
  | .tmemFetchYuv8 tilenum sc t => Sys2Proof.Machine.execTmemFetchYuv8 tilenum sc t s
  | .tmemFetchYuv16 tilenum sc t => Sys2Proof.Machine.execTmemFetchYuv16 tilenum sc t s
  | .tmemFetchYuv32 tilenum sc t => Sys2Proof.Machine.execTmemFetchYuv32 tilenum sc t s
  | .tmemFetchCi4 tilenum sc t => Sys2Proof.Machine.execTmemFetchCi4 tilenum sc t s
  | .tmemFetchCi8 tilenum sc t => Sys2Proof.Machine.execTmemFetchCi8 tilenum sc t s
  | .tmemFetchCi16 tilenum sc t => Sys2Proof.Machine.execTmemFetchCi16 tilenum sc t s
  | .tmemFetchCi32 tilenum sc t => Sys2Proof.Machine.execTmemFetchCi32 tilenum sc t s
  | .tmemFetchIa4 tilenum sc t => Sys2Proof.Machine.execTmemFetchIa4 tilenum sc t s
  | .tmemFetchIa8 tilenum sc t => Sys2Proof.Machine.execTmemFetchIa8 tilenum sc t s
  | .tmemFetchIa16 tilenum sc t => Sys2Proof.Machine.execTmemFetchIa16 tilenum sc t s
  | .tmemFetchIa32 tilenum sc t => Sys2Proof.Machine.execTmemFetchIa32 tilenum sc t s
  | .tmemFetchI4 tilenum sc t => Sys2Proof.Machine.execTmemFetchI4 tilenum sc t s
  | .tmemFetchI8 tilenum sc t => Sys2Proof.Machine.execTmemFetchI8 tilenum sc t s
  | .tmemFetchI16 tilenum sc t => Sys2Proof.Machine.execTmemFetchI16 tilenum sc t s
  | .tmemFetchI32 tilenum sc t => Sys2Proof.Machine.execTmemFetchI32 tilenum sc t s
  | .tmemFetchTlut tilenum sc sdiff t tdiff upper => Sys2Proof.Machine.execTmemFetchTlut tilenum sc sdiff t tdiff upper s
  | .copyTexel16 tilenum sss sst p => Sys2Proof.Machine.execCopyTexel16 tilenum sss sst p s
  | .combineEqRgb a b c d cZero => Sys2Proof.Machine.execCombineEqRgb a b c d cZero s
  | .combineEqAlpha a b c d cZero => Sys2Proof.Machine.execCombineEqAlpha a b c d cZero s
  | .combine1cycle adith cvg => Sys2Proof.Machine.execCombine1cycle adith cvg s
  | .combine2cycle adith cvg => Sys2Proof.Machine.execCombine2cycle adith cvg s
  | .finishCycle adith cvg bypass => Sys2Proof.Machine.execFinishCycle adith cvg bypass s
  | .chromaKey col => Sys2Proof.Machine.execChromaKey col s
  | .blendEq c => Sys2Proof.Machine.execBlendEq c s
  | .blendEqC02 => Sys2Proof.Machine.execBlendEqC02 s
  | .alphaCompare alpha => Sys2Proof.Machine.execAlphaCompare alpha s
  | .blend1cycle o => Sys2Proof.Machine.execBlend1cycle o s
  | .blend2cycle o acalpha => Sys2Proof.Machine.execBlend2cycle o acalpha s
  | .zLoad zbcur => Sys2Proof.Machine.execZLoad zbcur s
  | .zcompare o => Sys2Proof.Machine.execZcompare o s
  | .zcompareDisabled o => Sys2Proof.Machine.execZcompareDisabled o s
  | .shifters dzpixenc raw => Sys2Proof.Machine.execShifters dzpixenc raw s
  | .zcompareOpaque x => Sys2Proof.Machine.execZcompareOpaque x s
  | .zcompareInterpenetrating x oz sz dznotshift cvg => Sys2Proof.Machine.execZcompareInterpenetrating x oz sz dznotshift cvg s
  | .zcompareTransparent x => Sys2Proof.Machine.execZcompareTransparent x s
  | .zcompareDecal x => Sys2Proof.Machine.execZcompareDecal x s
  | .zStore zbcur sz dzpixenc => Sys2Proof.Machine.execZStore zbcur sz dzpixenc s
  | .irand => Sys2Proof.Machine.execIrand s
  | .ditherNoise x y cdith adith => Sys2Proof.Machine.execDitherNoise x y cdith adith s
  | .rgbDither r g b dith => Sys2Proof.Machine.execRgbDither r g b dith s
  | .fbRead4 curpixel pre => Sys2Proof.Machine.execFbRead4 curpixel pre s
  | .fbRead8 curpixel pre => Sys2Proof.Machine.execFbRead8 curpixel pre s
  | .fbRead16 curpixel pre => Sys2Proof.Machine.execFbRead16 curpixel pre s
  | .fbRead32 curpixel pre => Sys2Proof.Machine.execFbRead32 curpixel pre s
  | .finalCvg blendEn cvg memcvg => Sys2Proof.Machine.execFinalCvg blendEn cvg memcvg s
  | .fbWrite4 o => Sys2Proof.Machine.execFbWrite4 o s
  | .fbWrite8 o => Sys2Proof.Machine.execFbWrite8 o s
  | .fbWrite16 o => Sys2Proof.Machine.execFbWrite16 o s
  | .fbWrite32 o => Sys2Proof.Machine.execFbWrite32 o s
  | .fbFill8 curpixel => Sys2Proof.Machine.execFbFill8 curpixel s
  | .fbFill16 curpixel => Sys2Proof.Machine.execFbFill16 curpixel s
  | .fbFill32 curpixel => Sys2Proof.Machine.execFbFill32 curpixel s
  | .recomputeTile tile => Sys2Proof.Machine.execRecomputeTile tile s

end Sys2Proof.Machine
end

