-- ==== Sys2Proof/Machine/Step.lean ====
section
/-! DEFINITION. One step: one command, from its acceptance to its completion (`10_state.md` rule R30: "A model may execute a
whole command as one step (big-step)"), log entry 4. -/

namespace Sys2Proof.Machine

/-- One step. A busy block accepts no command (R120, R628); an idle block with no record at its port waits, log entry 22;
a record with an unknown tag is consumed and "the block performs nothing and stays `IDLE`" (R161), log entry 3. -/
def step (s : State) : Host.Outcome State Fault Refusal :=
  match s.gs.seq.phase with
  | .edgewalk => .next s
  | .render => .next s
  | .idle =>
    match s.port with
    | [] => .next s
    | rec :: rest =>
      match Sys2Proof.decode rec with
      | .ok i => exec i (s.setPort rest)
      | .error _ => .next (s.setPort rest)

/-- `s` with the record of a table word next at the command port of an idle block, log entry 24. -/
def State.withFetchWord (s : State) (nbits w : Nat) : State :=
  (s.setPort (Sys2Proof.tableRecord nbits w :: s.port)).setPhase .idle

end Sys2Proof.Machine
end

