-- ==== Sys2Proof/Safety.lean ====
section
/-! DEFINITION. What a sound state of this machine is, and the words that claims about steps are stated in: frames, which
operations store, where a renderer may store, and the integer form of the address rules of `43_texture_memory.md`. -/

namespace Sys2Proof.Machine

/-- The stores are in their one canonical form: keys rise strictly, stay inside the space (R80, R86, R90, R50, R52), and no
entry holds what an unlisted key reads as. -/
structure StoresSound (s : State) : Prop where
  ram : Memory.wf s.ram = true
  ramKeys : keysBelow s.ramBytes s.ram = true
  hidden : storeWf unlistedHidden s.hidden = true
  hiddenKeys : keysBelow (s.ramBytes / 2) s.hidden = true
  tmem : Memory.wf s.tmem = true
  tmemKeys : keysBelow Config.tmemBytes s.tmem = true
  cvgbuf : Memory.wf s.gs.cvgbuf = true
  cvgbufKeys : keysBelow Config.cvgbufLen s.gs.cvgbuf = true
  span : storeWf Span.reset s.gs.span = true
  spanKeys : keysBelow Config.maxScanlines s.gs.span = true

/-- Derived state agrees with the registers it is computed from: the tile fields always ("never stale", R562), the
classification flags unless `gs.stale` (R33, R103). -/
structure DerivedSound (s : State) : Prop where
  tiles : ∀ n : BitVec 3, (s.tile n).recompute = s.tile n
  flags : s.gs.stale = true ∨ s.gs.der = deduce s.gs.om s.gs.cc

/-- Registers stay in the ranges their rules give: mode registers of 56 bits (R532, R534), `gs.fb_width` at most 1024 (R45),
primitive depth `depth[14:0] << 16` (R47), shifters 0..4 (R70), pixel alpha at most 0xFF between operations (R412 (b)), memory alpha a
coverage in bits 7:5 (R22), one worker (R594), no command in progress (R30). -/
structure RegistersSound (s : State) : Prop where
  om : modeBits s.gs.om = s.gs.om
  cc : modeBits s.gs.cc = s.gs.cc
  fbWidth : s.gs.img.fbWidth.toNat ≤ 1024
  primitiveZ : s.gs.misc.primitiveZ &&& 0x7FFF0000 = s.gs.misc.primitiveZ
  blshifta : s.gs.hid.blshifta.toNat ≤ 4
  blshiftb : s.gs.hid.blshiftb.toNat ≤ 4
  pastblshifta : s.gs.hid.pastblshifta.toNat ≤ 4
  pastblshiftb : s.gs.hid.pastblshiftb.toNat ≤ 4
  pixelAlpha : s.gs.col.pixel.a.toNat ≤ 0xFF
  memoryAlpha : s.gs.col.memory.a &&& 0xE0 = s.gs.col.memory.a
  preMemoryAlpha : s.gs.col.preMemory.a &&& 0xE0 = s.gs.col.preMemory.a
  stride : s.gs.misc.stride = 1
  workerOffset : s.gs.misc.workerOffset = 0
  idle : s.gs.seq.phase = .idle

/-- The machine's invariant. -/
structure Inv (s : State) : Prop where
  stores : StoresSound s
  derived : DerivedSound s
  registers : RegistersSound s

/-- No tile holds a reserved format (R40, R160), so every texel fetch has an arm. -/
def TilesFetchable (s : State) : Prop := ∀ n : BitVec 3, (s.tile n).format.toNat < 5 ∧ (s.tile n).notlutswitch.toNat < 20

/-- What a draw needs in order to have a meaning in every cycle type: fetchable tiles and, in copy mode, a 16 bpp framebuffer
or the 32 bpp one that crashes, no LOD, and 16-bit tiles or a lookup table (R160, R240, R288, R340). -/
structure Drawable (s : State) : Prop where
  tiles : TilesFetchable s
  copySize : Om.cycleType s.gs.om = 2 → 2 ≤ s.gs.img.fbSize.toNat
  copyLod : Om.cycleType s.gs.om = 2 → Om.texLodEn s.gs.om = false
  copyTexel : Om.cycleType s.gs.om = 2 → Om.enTlut s.gs.om = true ∨ ∀ n : BitVec 3, (s.tile n).size = 2

/-! ### Frames -/

/-- Entry `u` of the hidden store. -/
def State.hiddenAt (s : State) (u : Nat) : BitVec 2 := storeGet unlistedHidden s.hidden u

/-- RDRAM and the hidden store read the same at every address. -/
structure SameRam (s t : State) : Prop where
  ram : ∀ a, t.ramByte a = s.ramByte a
  hidden : ∀ u, t.hiddenAt u = s.hiddenAt u

/-- TMEM reads the same at every address. -/
def SameTmem (s t : State) : Prop := ∀ a, t.tmemByte a = s.tmemByte a

/-- RDRAM outside the byte addresses `P` and the hidden store outside the entries `Q` read the same. -/
structure SameRamOutside (P Q : Nat → Prop) (s t : State) : Prop where
  ram : ∀ a, ¬ P a → t.ramByte a = s.ramByte a
  hidden : ∀ u, ¬ Q u → t.hiddenAt u = s.hiddenAt u

/-- The control registers of R22 (the command-written colours), R23, R40 to R47, but `gs.max_level`, which `DRAW_TRI` also
writes (R174). -/
structure SameControl (s t : State) : Prop where
  om : t.gs.om = s.gs.om
  cc : t.gs.cc = s.gs.cc
  clip : t.gs.clip = s.gs.clip
  img : t.gs.img = s.gs.img
  tiles : t.gs.tiles = s.gs.tiles
  fillColor : t.gs.misc.fillColor = s.gs.misc.fillColor
  primitiveZ : t.gs.misc.primitiveZ = s.gs.misc.primitiveZ
  primitiveDeltaZ : t.gs.misc.primitiveDeltaZ = s.gs.misc.primitiveDeltaZ
  stride : t.gs.misc.stride = s.gs.misc.stride
  workerOffset : t.gs.misc.workerOffset = s.gs.misc.workerOffset
  prim : t.gs.col.prim = s.gs.col.prim
  env : t.gs.col.env = s.gs.col.env
  fog : t.gs.col.fog = s.gs.col.fog
  blend : t.gs.col.blend = s.gs.col.blend
  keyCenter : t.gs.col.keyCenter = s.gs.col.keyCenter
  keyScale : t.gs.col.keyScale = s.gs.col.keyScale
  keyWidth : t.gs.col.keyWidth = s.gs.col.keyWidth
  primLodFrac : t.gs.sca.primLodFrac = s.gs.sca.primLodFrac
  minLevel : t.gs.sca.minLevel = s.gs.sca.minLevel
  k0 : t.gs.sca.k0 = s.gs.sca.k0
  k1 : t.gs.sca.k1 = s.gs.sca.k1
  k2 : t.gs.sca.k2 = s.gs.sca.k2
  k3 : t.gs.sca.k3 = s.gs.sca.k3
  k4 : t.gs.sca.k4 = s.gs.sca.k4
  k5 : t.gs.sca.k5 = s.gs.sca.k5
  ramExtra : t.ramExtra = s.ramExtra

/-! ### Kinds of operation -/

/-- The operations that write RDRAM or the hidden store (R92). -/
def writesRam : Instr → Bool
  | .drawTri _ | .fillRect _ _ _ _ | .texRect _ _ _ _ _ _ _ _ _ => true
  | .renderSpans _ _ _ _ | .render1cycle _ _ _ _ | .render2cycle _ _ _ _ | .renderCopy _ _ _ _ | .renderFill _ _ _ => true
  | .zStore _ _ _ | .fbWrite4 _ | .fbWrite8 _ | .fbWrite16 _ | .fbWrite32 _ => true
  | .fbFill8 _ | .fbFill16 _ | .fbFill32 _ => true
  | _ => false

/-- `DRAW_TRI` and the two pseudo-operations that expand to it (R120, R150). -/
def isDraw : Instr → Bool
  | .drawTri _ | .fillRect _ _ _ _ | .texRect _ _ _ _ _ _ _ _ _ => true
  | _ => false

/-- The configuration that a renderer finds fatal (R570, causes 1 to 3), in the cycle type `cycle`. -/
def crashConfig (cycle : Nat) (s : State) : Bool :=
  (cycle == 3 && (s.gs.img.fbSize == 0 || Om.zCompareEn s.gs.om || Om.zUpdateEn s.gs.om))
    || (cycle == 2 && s.gs.img.fbSize == 3)

/-- The operations that raise the pipeline crash, and when (R570). -/
def crashes (i : Instr) (s : State) : Bool :=
  match i with
  | .renderCopy _ _ _ _ => crashConfig 2 s
  | .renderFill _ _ _ => crashConfig 3 s
  | .renderSpans _ _ _ _ => crashConfig (Om.cycleType s.gs.om).toNat s
  | _ => isDraw i && crashConfig (Om.cycleType s.gs.om).toNat s

/-! ### Where a renderer may store -/

/-- The bytes of the pixel with index `p` in the colour image, at the current framebuffer size (R491). -/
def fbBytes (s : State) (p : Word) (a : Nat) : Prop :=
  match s.gs.img.fbSize.toNat with
  | 0 => a = s.mask8 (s.fbIndex8 p)
  | 1 => a = s.mask8 (s.fbIndex8 p)
  | 2 => a / 2 = s.mask16 (s.fbIndex16 p)
  | _ => a / 4 = s.mask32 (s.fbIndex32 p)

/-- The bytes of the 16-bit Z word of the pixel with index `p` (R428). -/
def zBytes (s : State) (p : Word) (a : Nat) : Prop := a / 2 = s.mask16 ((s.gs.img.zbAddress.setWidth 32 >>> 1) + p)

/-- Pixel `j` of scanline `i` of a span that is drawn: the line is valid and `j` is in `0 .. length` (R212). -/
def inSpan (s : State) (flip : Bool) (i j : Int) : Prop :=
  (s.spanAt i).validline = true ∧ 0 ≤ j ∧ j ≤ spanLength (s.spanAt i) flip

/-- `curpixel` of pixel `j` of scanline `i`: `gs.fb_width * i + rx + j * xinc`, modulo 2^32 (R212, R214, R250). -/
def pixelIndex (s : State) (flip : Bool) (i j : Int) : Word :=
  s.gs.img.fbWidth.setWidth 32 * BitVec.ofInt 32 i + (s.spanAt i).rx.setWidth 32 + xStep flip * BitVec.ofInt 32 j

/-- The x of pixel `j` of scanline `i` (12 bits, R30). -/
def pixelX (s : State) (flip : Bool) (i j : Int) : BitVec 12 :=
  (s.spanAt i).rx + (xStep flip).setWidth 12 * BitVec.ofInt 12 j

/-- `gs.fb_width * i + x` (R240). -/
def pixelIndexAt (s : State) (flip : Bool) (i j : Int) : Word :=
  s.gs.img.fbWidth.setWidth 32 * BitVec.ofInt 32 i + (pixelX s flip i j).setWidth 32

/-! ### Integer forms of the spec's formulas -/

/-- `ext9` on integers (R351). -/
def extended9 (v : BitVec 9) : Int := if v.toNat < 0x180 then v.toNat else (v.toNat : Int) - 0x200

/-- `clamp9[v & 0x1FF]` (R352): below 0x100 the value, below 0x180 all ones, else 0. -/
def clamped9 (v : Int) : Int := if v % 512 < 256 then v % 512 else if v % 512 < 384 then 255 else 0

/-- `tbase(T, t)` (R301). -/
def rowBase (t : Tile) (row : BitVec 13) : Int := t.line.toNat * row.toInt + t.tmem.toNat

/-- The swap of the two halves of a 64-bit TMEM word on odd rows (R301): `half` is 4 for bytes, 2 for 16-bit units. -/
def rowSwap (row : BitVec 13) (half a : Nat) : Nat :=
  if row.toInt % 2 = 0 then a else if a / half % 2 = 0 then a + half else a - half

/-- The nibble of the texel `(s, t)` (R301). -/
def nibbleAt (m : State) (t : Tile) (s row : BitVec 13) : Nat :=
  let b := (m.tmemByte (rowSwap row 4 ((16 * rowBase t row + s.toInt) / 2 % 0x1000).toNat)).toNat
  if s.toInt % 2 = 0 then b / 16 else b % 16

/-- The byte of the texel `(s, t)` (R301). -/
def byteAt (m : State) (t : Tile) (s row : BitVec 13) : Nat :=
  (m.tmemByte (rowSwap row 4 ((8 * rowBase t row + s.toInt) % 0x1000).toNat)).toNat

/-- The 16-bit unit `u` of TMEM, big-endian (R90). -/
def unitAt (m : State) (u : Nat) : Nat := (m.tmemByte (2 * u)).toNat * 256 + (m.tmemByte (2 * u + 1)).toNat

/-- The 16-bit index of the texel `(s, t)` in the first `n` units: `n` is 0x800 for `addr16`, 0x400 for `addr32` (R301). -/
def unitIndex (n : Nat) (t : Tile) (s row : BitVec 13) : Nat :=
  rowSwap row 2 ((4 * rowBase t row + s.toInt) % n).toNat

/-- The 16-bit index of the chroma pair of the texel `(s, t)` (R313). -/
def chromaIndex (t : Tile) (s row : BitVec 13) : Nat :=
  rowSwap row 2 ((8 * rowBase t row + s.toInt) / 2 % 0x400).toNat

/-- What a selector references, by the sources the code tables of R354 give it. -/
def references (x : CombinerSources) (color alpha : Source) : Bool :=
  [x.aRgb, x.bRgb, x.cRgb, x.dRgb, x.aA, x.bA, x.cA, x.dA].any (fun src => src = color || src = alpha)

/-- A texel whose channels are these numbers. -/
def IsTexel (c : Color 9) (r g b a : Int) : Prop :=
  (c.r.toNat : Int) = r % 512 ∧ (c.g.toNat : Int) = g % 512 ∧ (c.b.toNat : Int) = b % 512 ∧ (c.a.toNat : Int) = a % 512

/-- The RGBA 5-5-5-1 reading of a 16-bit value (R310). -/
def IsRgba16 (c : Color 9) (v : Nat) : Prop :=
  let rep := fun (x : Nat) => (8 * x + x / 4 : Int)
  IsTexel c (rep (v / 2048)) (rep (v / 64 % 32)) (rep (v / 2 % 32)) (if v % 2 = 1 then 255 else 0)

/-- The reading of a 16-bit value as two bytes and an alpha bit (R317). -/
def IsPair (c : Color 9) (v : Nat) : Prop :=
  IsTexel c (v / 256) (v % 256) (v / 256) (if v % 2 = 1 then 255 else 0)

/-- The index of the texel `(s, t)` into the lookup table, by size and format (R330). -/
def tableIndex (m : State) (t : Tile) (s row : BitVec 13) : Nat :=
  let yuv := decide (t.format = 1)
  match t.size.toNat with
  | 0 => 16 * t.palette.toNat + (if yuv then (if s.toInt % 2 = 0 then byteAt m t s row / 16 else byteAt m t s row % 16)
      else nibbleAt m t s row)
  | 1 => byteAt m t s row
  | 2 => (if yuv then unitAt m (chromaIndex t s row) else unitAt m (unitIndex 0x800 t s row % 0x400)) / 256
  | _ => (if yuv then unitAt m (chromaIndex t s row) else unitAt m (unitIndex 0x400 t s row)) / 256

/-- Bank `k` of entry `e` of the lookup table, in the high half of TMEM (R330). -/
def tableEntry (m : State) (e k : Nat) : Nat := unitAt m (0x400 + 4 * e + k)

/-- One sub-scanline of a coverage mask (R453, R454): at pixel `p`, between the crossings `l` and `r` in units of 1/8 pixel. -/
def subMask (k : Nat) (inval : Bool) (l r : Nat) (p : Nat) : Nat :=
  let cols := if k % 2 = 0 then 0xA else 0x5
  let left := 0x0F / 2 ^ ((l % 8 + 1) / 2)
  let right := 0xF0 / 2 ^ ((r % 8 + 1) / 2) % 16
  let row :=
    if inval then 0
    else if p < l / 8 ∨ r / 8 < p then 0
    else if l / 8 = r / 8 then left &&& right &&& cols
    else if p = l / 8 then left &&& cols
    else if p = r / 8 then right &&& cols
    else cols
  if k < 2 then 16 * row else row

/-- A scissored edge crossing: 14 bits in 1/8 pixel with the sticky bit, and whether it is past either edge of the scissor (R182). -/
structure EdgeCrossing where
  xsc : Int
  isOver : Bool
  isUnder : Bool
deriving DecidableEq, Repr

/-- `CROSS` (R182) on integers: `u` is the edge position in its low 28 bits, `xh` and `xl` the scissor bounds in 1/8 pixel. -/
def crossing (xh xl : Nat) (u : Int) : EdgeCrossing :=
  let sticky : Int := if u / 2 % 0x2000 = 0 then 0 else 1
  let isUnder := decide (0x8000000 ≤ u) ||
    (decide (u / 0x2000 % 0x2000 / 2 * 2 + sticky < xh) && decide (u / 0x4000000 % 2 = 0))
  let x := if isUnder then (xh : Int) else u / 0x2000 % 0x4000 / 2 * 2 + sticky
  let isOver := decide (x / 0x2000 % 2 = 1) || decide ((xl : Int) ≤ x % 0x2000)
  ⟨if isOver then xl else x, isOver, isUnder⟩

/-- The derived fields of a tile are those of R546, on integers. -/
structure TileDerived (t : Tile) : Prop where
  clampdiffs : (t.clampdiffs.toNat : Int) = ((t.sh.toNat / 4 : Int) - t.sl.toNat / 4) % 1024
  clampdifft : (t.clampdifft.toNat : Int) = ((t.th.toNat / 4 : Int) - t.tl.toNat / 4) % 1024
  clampens : t.clampens = true ↔ t.cs = true ∨ t.maskS.toNat = 0
  clampent : t.clampent = true ↔ t.ct = true ∨ t.maskT.toNat = 0
  masksclamped : t.masksclamped.toNat = min t.maskS.toNat 10
  masktclamped : t.masktclamped.toNat = min t.maskT.toNat 10
  notlutswitch : t.notlutswitch.toNat = 4 * t.format.toNat + t.size.toNat
  tlutswitch : t.tlutswitch.toNat = 4 * t.size.toNat + (t.format.toNat + 2) % 4

/-- A tile with other derived fields is the same tile in what the tile commands write (R40). -/
def SameDescription (t u : Tile) : Prop :=
  t = { u with
    clampdiffs := t.clampdiffs, clampdifft := t.clampdifft, clampens := t.clampens, clampent := t.clampent
    masksclamped := t.masksclamped, masktclamped := t.masktclamped
    notlutswitch := t.notlutswitch, tlutswitch := t.tlutswitch }

end Sys2Proof.Machine
end

