-- ==== Sys2Proof/WellFormed.lean ====
section
/-! DEFINITION. Well-formed operations. Field widths are in the types of Syntax.lean; the checks here are the rest:
an absent coefficient group of a `DRAW_TRI` record holds zeros (`30_encoding.md` rule R123), and a pixel count does not
pass its span's length (`10_state.md` rule R30). -/

namespace Sys2Proof

/-- An attribute whose four coefficients are zero. -/
def Coeff.zero : Coeff := ⟨0, 0, 0, 0⟩

/-- R123: the shade group is present iff `shade`, the texture group iff `texture`, the depth group iff `zbuf`; an absent
group holds zeros. -/
def TriCmd.wf (c : TriCmd) : Bool :=
  (c.shade || decide (c.r = .zero ∧ c.g = .zero ∧ c.b = .zero ∧ c.a = .zero)) &&
  (c.texture || decide (c.s = .zero ∧ c.t = .zero ∧ c.w = .zero)) &&
  (c.zbuf || decide (c.z = .zero))

/-- R30: `j` runs over 0..length. -/
def TexOperands.wf (o : TexOperands) : Bool := decide (o.j.toNat ≤ o.length.toNat)

/-- The well-formedness check. -/
def Instr.wf : Instr → Bool
  | .drawTri c => c.wf
  | .edgewalk c => c.wf
  | .texture1cycle o => o.wf
  | .nextCoords1cycle o => o.wf
  | .texture2cycle o => o.wf
  | .lod1cycle _ _ o => o.wf
  | .lod2cycle _ _ o => o.wf
  | _ => true

end Sys2Proof
end

