-- ==== Sys2Proof/Certificates/Slice0/Obligations.lean ====
section
/-! DEFINITION. The statements for the provers, each from numbered rules of spec/. A statement of an operation's result gives
the next state as the old one with the named fields replaced, so it is its frame too: what is not named is unchanged. -/

open Sys2Proof
open Sys2Proof.Machine

/-! ### Records and steps -/

/-- Records written out byte by byte from R121, R122 and R130 in the layout of log entry 1. -/
def Obligations.SampleRecordsDecode : Prop :=
  decode [0x2F, 0x00, 0x30, 0x00, 0x00, 0x00, 0x00, 0x00, 0x00] = .ok (.setOtherModes 0x0030000000000000) ∧
  decode [0x3F, 0x00, 0x02, 0x01, 0x3F, 0x00, 0x10, 0x00, 0x00] = .ok (.setColorImage 0 2 319 0x100000) ∧
  decode [0x35, 1, 2, 1, 0, 8, 1, 0, 3, 0, 0, 5, 0, 1, 0, 4, 0] =
    .ok (.setTile { tile := 1, format := 2, size := 1, line := 8, tmem := 0x100, palette := 3, ct := false, mt := false
                    maskT := 5, shiftT := 0, cs := true, ms := false, maskS := 4, shiftS := 0 }) ∧
  decode [0x3A, 31, 0x80, 1, 2, 3, 4] = .ok (.setPrimColor 31 0x80 1 2 3 4) ∧
  decode [0x40, 0x00, 0x10, 0x00, 0x04] = .ok (.fillRect 0x10 4 0 0) ∧
  decode [0x36] = .error (.unknownTag 0x36)

/-- No bit of a record is dropped: every well-formed command or pseudo-operation decodes from its record, whatever bytes
follow it (R121, R122, R123, R130, R150). -/
def Obligations.EncodedRecordDecodes : Prop :=
  ∀ (i : Instr) (bs rest : List Byte), i.wf = true → encode i = some bs → decode (bs ++ rest) = .ok i

/-- "A decoder tells commands apart by `op` alone" (R121): the tags of the table, and two more for the pseudo-operations (log
entry 2), decode, every other tag is rejected by name, two records with one tag are one operation, and the low bits of a
`DRAW_TRI` tag are its three flags. What the decoder gives is well-formed and has a record of its own: it is never a stage
operation (R120 (b)). -/
def Obligations.TagSelectsOperation : Prop :=
  (∀ (b : Byte) (bs cs : List Byte),
     ((b.toNat ∈ [0x08, 0x09, 0x0A, 0x0B, 0x0C, 0x0D, 0x0E, 0x0F, 0x2A, 0x2B, 0x2C, 0x2D, 0x2E, 0x2F, 0x32, 0x34, 0x35, 0x37,
         0x38, 0x39, 0x3A, 0x3B, 0x3C, 0x3E, 0x3F, 0x40, 0x41] →
       ∃ i j, decode (b :: bs) = .ok i ∧ decode (b :: cs) = .ok j ∧ i.ctorIdx = j.ctorIdx) ∧
     (b.toNat ∉ [0x08, 0x09, 0x0A, 0x0B, 0x0C, 0x0D, 0x0E, 0x0F, 0x2A, 0x2B, 0x2C, 0x2D, 0x2E, 0x2F, 0x32, 0x34, 0x35, 0x37,
         0x38, 0x39, 0x3A, 0x3B, 0x3C, 0x3E, 0x3F, 0x40, 0x41] →
       decode (b :: bs) = .error (.unknownTag b))) ∧
     (b.toNat / 8 = 1 → ∃ c, decode (b :: bs) = .ok (.drawTri c) ∧
       c.shade = b.getLsbD 2 ∧ c.texture = b.getLsbD 1 ∧ c.zbuf = b.getLsbD 0)) ∧
  (∀ (bs : List Byte) (i : Instr), decode bs = .ok i → i.wf = true ∧ ∃ cs, encode i = some cs)

/-- An idle block takes the next record and runs it (R3, R120 (a)); the record leaves the port. The word of a table row placed
at the port runs at the very next step (log entry 24). -/
def Obligations.StepRunsTheDecodedRecord : Prop :=
  (∀ (s : State) (rec : List Byte) (rest : List (List Byte)) (i : Instr),
     s.gs.seq.phase = .idle → s.port = rec :: rest → decode rec = .ok i → step s = exec i { s with port := rest }) ∧
  (∀ (s : State) (nbits w : Nat) (i : Instr),
     decodeTableWord nbits w = some i → step (s.withFetchWord nbits w) = exec i { s with gs.seq.phase := .idle })

/-- A busy block accepts nothing (R628), an idle block without a record waits, and a record with an unknown tag is taken and
"the block performs nothing and stays `IDLE`" (R161). The first two are log entry 22, the choice in the third log entry 3. -/
def Obligations.StepWithoutCommand : Prop :=
  (∀ s : State, s.gs.seq.phase ≠ .idle → step s = .next s) ∧
  (∀ s : State, s.port = [] → step s = .next s) ∧
  (∀ (s : State) (rec : List Byte) (rest : List (List Byte)) (e : Reject),
    s.gs.seq.phase = .idle → s.port = rec :: rest → decode rec = .error e → step s = .next { s with port := rest })

/-! ### Reset and invariants -/

/-- The values R602 gives for reset. -/
def Obligations.ResetRegisterValues : Prop :=
  State.reset.gs.seq = ⟨.idle, 0, 0, 0, 0, 0⟩ ∧ State.reset.gs.pipelineCrashed = false ∧ State.reset.gs.stale = true ∧
  State.reset.gs.misc = ⟨0, 0, 0, 0, 1, 0⟩ ∧ State.reset.gs.hid = ⟨Config.seed0, 0, 0, 0, 0, 0⟩ ∧
  State.reset.gs.om = 0 ∧ State.reset.gs.cc = 0 ∧ State.reset.gs.clip = ⟨0, 0, 0, 0, false, false⟩ ∧
  State.reset.gs.img = ⟨0, 0, 0, 0, 0⟩ ∧ State.reset.gs.sca = ⟨0, 0, 0, 0, 0, 0, 0, 0, 0, 0⟩ ∧
  State.reset.gs.col = ⟨⟨0, 0, 0, 0⟩, ⟨0, 0, 0, 0⟩, ⟨0, 0, 0, 0⟩, ⟨0, 0, 0, 0⟩, ⟨0, 0, 0, 0⟩, ⟨0, 0, 0, 0⟩, ⟨0, 0, 0, 0⟩,
    ⟨0, 0, 0, 0⟩, ⟨0, 0, 0, 0⟩, ⟨0, 0, 0⟩, ⟨0, 0, 0⟩, ⟨0, 0, 0⟩, ⟨0, 0, 0, 0⟩, 0, ⟨0, 0, 0, 0⟩, ⟨0, 0, 0, 0⟩, ⟨0, 0, 0, 0⟩⟩ ∧
  State.reset.gs.der = ⟨0, 0, false, false, false, false, 0, 0, false, false⟩ ∧
  State.reset.gs.slopes = ⟨0, 0, 0, 0, 0, 0, 0, 0, 0, 0, 0, 0, 0, 0, 0, 0, 0, 0, 0, 0, 0, 0⟩ ∧
  (∀ n : BitVec 3, State.reset.tile n =
    ⟨0, 0, 0, 0, 0, false, false, false, false, 0, 0, 0, 0, 0, 0, 0, 0, 0, 0, true, true, 0, 0, 0, 2⟩) ∧
  (∀ j : Int, State.reset.spanAt j = ⟨0, 0, 0, false, ⟨0, 0, 0, 0, 0, 0, 0, 0⟩, #v[0, 0, 0, 0], #v[0, 0, 0, 0],
    #v[false, false, false, false]⟩) ∧
  (∀ p : Nat, State.reset.cvgAt p = 0)

/-- The machine right after reset satisfies the invariant. -/
def Obligations.ResetSatisfiesInvariant : Prop := Inv State.reset

/-- Every step keeps the invariant: the stores stay in their canonical form inside their spaces, tile fields and
classification flags agree with the registers they are computed from (R546, R562), registers keep their ranges, and a
completed command leaves the block idle (R30, R172). -/
def Obligations.StepKeepsInvariant : Prop :=
  ∀ s t : State, Inv s → step s = .next t → Inv t

/-- The pipeline crash is raised exactly by the draws and renderers whose configuration R570 lists; no other operation raises
it, and no operation clears the flag (R574). -/
def Obligations.CrashFlagIsRaisedExactlyByItsCauses : Prop :=
  ∀ (i : Instr) (s t : State), exec i s = .next t → t.gs.pipelineCrashed = (s.gs.pipelineCrashed || crashes i s)

/-- A crashing operation always answers, with the flag set, the sequencer back at IDLE with zero counters, and memory
untouched: it is "precise with respect to memory" (R572); its own registers change as any draw's do. -/
def Obligations.CrashAbandonsCommand : Prop :=
  ∀ (i : Instr) (s : State), crashes i s = true →
    ∃ t, exec i s = .next t ∧ t.gs.pipelineCrashed = true ∧ t.gs.seq = ⟨.idle, 0, 0, 0, 0, 0⟩ ∧
      SameRam s t ∧ SameTmem s t ∧ SameControl s t

/-- TMEM "is written only by `LOAD_TILE`" (R344), RDRAM and the hidden store only by the operations R92 gives a write; every
other operation leaves every byte as it was (R530, R593). -/
def Obligations.MemoryIsWrittenOnlyByItsOperations : Prop :=
  ∀ (i : Instr) (s t : State), exec i s = .next t →
    ((∀ tile sl tl sh th, i ≠ .loadTile tile sl tl sh th) → SameTmem s t) ∧ (writesRam i = false → SameRam s t) ∧
    t.ramExtra = s.ramExtra

/-- Each control register changes only under the command that writes it (R530 to R559): modes, selectors, scissor, image
registers, tiles, and the command-written colours and scalars. -/
def Obligations.ControlRegistersChangeOnlyByTheirCommands : Prop :=
  ∀ (i : Instr) (s t : State), exec i s = .next t →
    (t.gs.om ≠ s.gs.om → ∃ om, i = .setOtherModes om) ∧
    (t.gs.cc ≠ s.gs.cc → ∃ cc, i = .setCombineMode cc) ∧
    (t.gs.clip ≠ s.gs.clip → ∃ xh yh xl yl f o, i = .setScissor xh yh xl yl f o) ∧
    (t.gs.img ≠ s.gs.img → (∃ f z w a, i = .setColorImage f z w a) ∨ ∃ a, i = .setZImage a) ∧
    (t.gs.tiles ≠ s.gs.tiles → (∃ c, i = .setTile c) ∨ (∃ n sl tl sh th, i = .setTileSize n sl tl sh th) ∨
      (∃ n sl tl sh th, i = .loadTile n sl tl sh th) ∨ ∃ n, i = .recomputeTile n) ∧
    (t.gs.misc.fillColor ≠ s.gs.misc.fillColor → ∃ c, i = .setFillColor c) ∧
    (t.gs.misc.primitiveZ ≠ s.gs.misc.primitiveZ ∨ t.gs.misc.primitiveDeltaZ ≠ s.gs.misc.primitiveDeltaZ →
      ∃ z dz, i = .setPrimDepth z dz) ∧
    (t.gs.col.prim ≠ s.gs.col.prim ∨ t.gs.sca.primLodFrac ≠ s.gs.sca.primLodFrac ∨ t.gs.sca.minLevel ≠ s.gs.sca.minLevel →
      ∃ m l r g b a, i = .setPrimColor m l r g b a) ∧
    (t.gs.col.env ≠ s.gs.col.env → ∃ r g b a, i = .setEnvColor r g b a) ∧
    (t.gs.col.fog ≠ s.gs.col.fog → ∃ r g b a, i = .setFogColor r g b a) ∧
    (t.gs.col.blend ≠ s.gs.col.blend → ∃ r g b a, i = .setBlendColor r g b a) ∧
    (t.gs.col.keyWidth ≠ s.gs.col.keyWidth ∨ t.gs.col.keyCenter ≠ s.gs.col.keyCenter ∨ t.gs.col.keyScale ≠ s.gs.col.keyScale →
      (∃ w c k, i = .setKeyR w c k) ∨ ∃ wg wb cg kg cb kb, i = .setKeyGb wg wb cg kg cb kb) ∧
    (t.gs.sca.k0 ≠ s.gs.sca.k0 ∨ t.gs.sca.k1 ≠ s.gs.sca.k1 ∨ t.gs.sca.k2 ≠ s.gs.sca.k2 ∨ t.gs.sca.k3 ≠ s.gs.sca.k3 ∨
      t.gs.sca.k4 ≠ s.gs.sca.k4 ∨ t.gs.sca.k5 ≠ s.gs.sca.k5 → ∃ k0 k1 k2 k3 k4 k5, i = .setConvert k0 k1 k2 k3 k4 k5) ∧
    (t.gs.misc.stride = s.gs.misc.stride ∧ t.gs.misc.workerOffset = s.gs.misc.workerOffset)

/-- What a step shows the outside changes only so: the handoff to the video interface by `SET_COLOR_IMAGE` (R46, R552), the
stale flag up by the two mode commands and down by a draw (R562), the crash flag only up (R574). -/
def Obligations.OutputsAndStaleFlagOverAStep : Prop :=
  ∀ (s t : State) (rec : List Byte) (rest : List (List Byte)) (i : Instr),
    s.gs.seq.phase = .idle → s.port = rec :: rest → decode rec = .ok i → step s = .next t →
    ((t.gs.img.fbAddress, t.gs.img.fbWidth, t.gs.img.fbFormat, t.gs.img.fbSize) ≠
        (s.gs.img.fbAddress, s.gs.img.fbWidth, s.gs.img.fbFormat, s.gs.img.fbSize) → ∃ f z w a, i = .setColorImage f z w a) ∧
    (t.gs.stale = true → s.gs.stale = true ∧ isDraw i = false ∨ (∃ om, i = .setOtherModes om) ∨ ∃ cc, i = .setCombineMode cc) ∧
    (t.gs.stale = false → s.gs.stale = false ∨ isDraw i = true) ∧
    (s.gs.pipelineCrashed = true → t.gs.pipelineCrashed = true) ∧ t.port = rest

/-! ### Memory -/

/-- Widths, masking and big-endian order of RDRAM (R81, R82, R84, R85): what each width reads in terms of bytes, and what each
width writes and leaves. The hidden bits move with the data (R86, R87): a 16-bit write sets its entry, a byte write only when
the byte index is odd, a 32-bit write both entries of its word. -/
def Obligations.RdramAndHiddenAccesses : Prop :=
  (∀ (s : State) (i : Word),
     s.rd8 i = s.ramByte (i.toNat % s.ramBytes) ∧
     (let u := i.toNat % (s.ramBytes / 2)
      (s.rd16 i).toNat = 256 * (s.ramByte (2 * u)).toNat + (s.ramByte (2 * u + 1)).toNat) ∧
     (let u := i.toNat % (s.ramBytes / 4)
      (s.rd32 i).toNat = 16777216 * (s.ramByte (4 * u)).toNat + 65536 * (s.ramByte (4 * u + 1)).toNat +
        256 * (s.ramByte (4 * u + 2)).toNat + (s.ramByte (4 * u + 3)).toNat) ∧
     (∀ v, (s.wr8 i v).rd8 i = v ∧ ∀ a, a ≠ i.toNat % s.ramBytes → (s.wr8 i v).ramByte a = s.ramByte a) ∧
     (∀ v, (s.wr16 i v).rd16 i = v ∧ ∀ a, a / 2 ≠ i.toNat % (s.ramBytes / 2) → (s.wr16 i v).ramByte a = s.ramByte a) ∧
     (∀ v, (s.wr32 i v).rd32 i = v ∧ ∀ a, a / 4 ≠ i.toNat % (s.ramBytes / 4) → (s.wr32 i v).ramByte a = s.ramByte a)) ∧
  (∀ (s : State) (i : Word),
     (∀ v h, (s.pairWr16 i v h).pairRd16 i = (v, h) ∧
       ∀ u, u ≠ i.toNat % (s.ramBytes / 2) → (s.pairWr16 i v h).hiddenAt u = s.hiddenAt u) ∧
     (∀ v h, i.toNat % 2 = 0 → ∀ u, (s.pairWr8 i v h).hiddenAt u = s.hiddenAt u) ∧
     (∀ v h, i.toNat % 2 = 1 → (s.pairWr8 i v h).hiddenAt (i.toNat / 2 % (s.ramBytes / 2)) = h ∧
       ∀ u, u ≠ i.toNat / 2 % (s.ramBytes / 2) → (s.pairWr8 i v h).hiddenAt u = s.hiddenAt u) ∧
     (∀ v h, (s.pairWr8 i v h).rd8 i = v) ∧
     (∀ v h0 h1, (s.pairWr32 i v h0 h1).rd32 i = v ∧ (s.pairWr32 i v h0 h1).hiddenAt (2 * (i.toNat % (s.ramBytes / 4))) = h0 ∧
       (s.pairWr32 i v h0 h1).hiddenAt (2 * (i.toNat % (s.ramBytes / 4)) + 1) = h1 ∧
       ∀ u, u / 2 ≠ i.toNat % (s.ramBytes / 4) → (s.pairWr32 i v h0 h1).hiddenAt u = s.hiddenAt u))

/-! ### State-setting commands -/

/-- `SET_OTHER_MODES` and `SET_COMBINE_MODE` (R532, R534): bits 63:56 are dropped, the stale flag is set, nothing else
changes. -/
def Obligations.ModeCommandsWriteRegisterAndStale : Prop :=
  ∀ (s : State) (v : BitVec 64),
    exec (.setOtherModes v) s = .next { s with gs.om := BitVec.ofNat 64 (v.toNat % 2 ^ 56), gs.stale := true } ∧
    exec (.setCombineMode v) s = .next { s with gs.cc := BitVec.ofNat 64 (v.toNat % 2 ^ 56), gs.stale := true }

/-- `SET_COLOR_IMAGE`, `SET_Z_IMAGE`, `SET_SCISSOR`, `SET_PRIM_DEPTH` (R552, R553, R559): the width register holds the record's
width plus one, 1 to 1024; "The top bit of `z` is dropped." -/
def Obligations.ImageScissorAndDepthCommands : Prop :=
  (∀ (s : State) (format : BitVec 3) (size : BitVec 2) (width : BitVec 10) (address : BitVec 26),
    ∃ w : BitVec 11, w.toNat = width.toNat + 1 ∧
      exec (.setColorImage format size width address) s =
        .next { s with gs.img.fbFormat := format, gs.img.fbSize := size, gs.img.fbWidth := w, gs.img.fbAddress := address }) ∧
  (∀ (s : State) (address : BitVec 26), exec (.setZImage address) s = .next { s with gs.img.zbAddress := address }) ∧
  (∀ (s : State) (xh yh xl yl : BitVec 12) (field odd : Bool),
    exec (.setScissor xh yh xl yl field odd) s = .next { s with gs.clip := ⟨xh, yh, xl, yl, field, odd⟩ }) ∧
  (∀ (s : State) (z dz : BitVec 16), ∃ p : BitVec 32, p.toNat = z.toNat % 0x8000 * 0x10000 ∧
    exec (.setPrimDepth z dz) s = .next { s with gs.misc.primitiveZ := p, gs.misc.primitiveDeltaZ := dz })

/-- The colour, key and convert commands (R554, R555, R556, R557, R558). -/
def Obligations.ColorAndScalarCommands : Prop :=
  (∀ (s : State) (color : BitVec 32) (r g b a lodFrac : BitVec 8) (minLevel : BitVec 5),
     exec (.setFillColor color) s = .next { s with gs.misc.fillColor := color } ∧
     exec (.setFogColor r g b a) s = .next { s with gs.col.fog := ⟨r, g, b, a⟩ } ∧
     exec (.setBlendColor r g b a) s = .next { s with gs.col.blend := ⟨r, g, b, a⟩ } ∧
     exec (.setEnvColor r g b a) s = .next { s with gs.col.env := ⟨r, g, b, a⟩ } ∧
     exec (.setPrimColor minLevel lodFrac r g b a) s =
       .next { s with gs.sca.minLevel := minLevel, gs.sca.primLodFrac := lodFrac, gs.col.prim := ⟨r, g, b, a⟩ }) ∧
  (∀ (s : State) (w0 w1 : BitVec 12) (c0 c1 x0 x1 : BitVec 8) (k0 k1 k2 k3 k4 k5 : BitVec 9),
     exec (.setKeyR w0 c0 x0) s =
       .next { s with gs.col.keyWidth.r := w0, gs.col.keyCenter.r := c0, gs.col.keyScale.r := x0 } ∧
     exec (.setKeyGb w0 w1 c0 x0 c1 x1) s =
       .next { s with gs.col.keyWidth.g := w0, gs.col.keyWidth.b := w1, gs.col.keyCenter.g := c0, gs.col.keyCenter.b := c1,
                      gs.col.keyScale.g := x0, gs.col.keyScale.b := x1 } ∧
     exec (.setConvert k0 k1 k2 k3 k4 k5) s =
       .next { s with gs.sca.k0 := k0, gs.sca.k1 := k1, gs.sca.k2 := k2, gs.sca.k3 := k3, gs.sca.k4 := k4, gs.sca.k5 := k5 })

/-- The tile commands and `RECOMPUTE_TILE` (R540, R542, R544, R546): the named fields from the record, the eight derived fields
by R546, the rest of the tile and every other tile unchanged; after `LOAD_TILE` every byte of TMEM is as the OPEN parameter
`load_tile_tmem` gives it, RDRAM and the hidden store are as before. That the parameter also sees the present TMEM and the size
of RDRAM is the model's choice (log entry 10). -/
def Obligations.TileCommands : Prop :=
  (∀ (s : State) (c : TileCmd), ∃ t : Tile,
    exec (.setTile c) s = .next { s with gs.tiles := s.gs.tiles.set c.tile.toNat t } ∧ TileDerived t ∧
    SameDescription t { s.tile c.tile with
      format := c.format, size := c.size, line := c.line, tmem := c.tmem, palette := c.palette, ct := c.ct, mt := c.mt
      maskT := c.maskT, shiftT := c.shiftT, cs := c.cs, ms := c.ms, maskS := c.maskS, shiftS := c.shiftS }) ∧
  (∀ (s : State) (n : BitVec 3) (sl tl sh th : BitVec 12), ∃ t : Tile,
    exec (.setTileSize n sl tl sh th) s = .next { s with gs.tiles := s.gs.tiles.set n.toNat t } ∧ TileDerived t ∧
    SameDescription t { s.tile n with sl := sl, tl := tl, sh := sh, th := th }) ∧
  (∀ (s : State) (n : BitVec 3), ∃ t : Tile,
    exec (.recomputeTile n) s = .next { s with gs.tiles := s.gs.tiles.set n.toNat t } ∧ TileDerived t ∧
    SameDescription t (s.tile n)) ∧
  (∀ (s : State) (n : BitVec 3) (sl tl sh th : BitVec 12), ∃ (t : Tile) (m : State),
     exec (.loadTile n sl tl sh th) s = .next m ∧
     m = { s with gs.tiles := s.gs.tiles.set n.toNat t, tmem := m.tmem } ∧ TileDerived t ∧
     SameDescription t { s.tile n with sl := sl, tl := tl, sh := sh, th := th } ∧
     ∀ a : BitVec 12, m.tmemByte a.toNat = Config.loadTileTmem ⟨s.gs, s.ram, s.ramExtra, s.tmem, n, sl, tl, sh, th⟩ a)

/-- `DEDUCE_DERIVATIVES` (R560), with the classification of R33 read off the sources that the selectors name: "by inspecting
which texel/LOD-fraction sources are referenced by the active combiner selectors". That the operation itself clears the stale
flag is the model's reading (log entry 26). -/
def Obligations.DeduceDerivativesClassifiesModes : Prop :=
  ∀ s : State, ∃ d : Derived,
    let om := s.gs.om
    let c0 := combinerSources0 s.gs.cc
    let c1 := combinerSources1 s.gs.cc
    let texel0 := fun x => references x .texel0 .texel0Alpha
    let texel1 := fun x => references x .texel1 .texel1Alpha
    let lod := fun x => references x .lodFrac .lodFrac
    let noise := fun x => references x .noise .noise
    exec .deduceDerivatives s = .next { s with gs.der := d, gs.stale := false } ∧
    d.cycle1Mode.toNat = (if texel1 c1 then 2 else if texel0 c1 || lod c1 then 1 else 0) ∧
    d.cycle2Mode.toNat = (if texel1 c1 then 3 else if texel1 c0 || texel0 c1 then 2
      else if texel0 c0 || lod c0 || lod c1 then 1 else 0) ∧
    d.persp = Om.perspTexEn om ∧
    d.rgbAlphaDither.toNat = 4 * (Om.rgbDitherSel om).toNat + (Om.alphaDitherSel om).toNat ∧
    (d.dolod = true ↔ Om.texLodEn om = true ∨ (Om.cycleType om = 1 ∧ (lod c0 = true ∨ lod c1 = true)) ∨
      (Om.cycleType om = 0 ∧ lod c1 = true)) ∧
    (d.ditherLevel = 0 ↔ (Om.cycleType om = 0 ∧ noise c1 = true) ∨
      (Om.cycleType om = 1 ∧ (noise c0 = true ∨ noise c1 = true)) ∨ Om.alphaDitherSel om = 2) ∧
    (d.ditherLevel ≠ 0 → (d.ditherLevel = 1 ↔ d.rgbAlphaDither ≠ 15) ∧ d.ditherLevel ≠ 3) ∧
    (d.partialreject1cycle = true ↔ blend2bSource (blendCodes om false).m2b = .invPixelAlpha ∧
      blend1bSource (blendCodes om false).m1b = .pixel) ∧
    (d.partialreject2cycle = true ↔ blend2bSource (blendCodes om true).m2b = .invPixelAlpha ∧
      blend1bSource (blendCodes om true).m1b = .pixel) ∧
    (d.realShiftersNeeded = true ↔
      (Om.cycleType om = 0 ∧ blend2bSource (blendCodes om false).m2b = .memoryAlpha) ∨
      (Om.cycleType om = 1 ∧ blend2bSource (blendCodes om true).m2b = .memoryAlpha)) ∧
    (d.interpixelShiftersNeeded = true ↔
      Om.cycleType om = 1 ∧ blend2bSource (blendCodes om false).m2b = .memoryAlpha)

/-! ### Draws and the edge walker -/

/-- `DRAW_TRI` completes (R172) in every cycle type, for every record, when its tiles and its copy configuration have a
meaning: it ends idle, with the classification flags refreshed if they were stale, `gs.max_level` and `flip` from the record
(R174), and TMEM and every other control register as they were. That it leaves the port and the latch, the model's own fields, is
the model's choice (log entry 12). -/
def Obligations.DrawTriCompletes : Prop :=
  ∀ (s : State) (c : TriCmd), Drawable s →
    ∃ t, exec (.drawTri c) s = .next t ∧ t.gs.seq.phase = .idle ∧ t.gs.stale = false ∧
      t.gs.der = (if s.gs.stale then deduce s.gs.om s.gs.cc else s.gs.der) ∧
      t.gs.misc.maxLevel = c.level ∧ t.gs.flags.flip = c.flip ∧ SameControl s t ∧ SameTmem s t ∧
      t.port = s.port ∧ t.ret = s.ret

/-- The parts of `DRAW_TRI` in the order of R172: deduce the stale flags, walk the edges, then draw the spans between the
scanlines the walk returns; the sequencer ends at IDLE. -/
def Obligations.DrawTriIsWalkThenRender : Prop :=
  ∀ (s w r : State) (c : TriCmd) (start stop : BitVec 12),
    (if s.gs.stale then
        ∃ d, exec .deduceDerivatives { s with gs.seq.phase := .edgewalk } = .next d ∧ exec (.edgewalk c) d = .next w
      else exec (.edgewalk c) { s with gs.seq.phase := .edgewalk } = .next w) →
    w.ret = .limits start stop →
    exec (.renderSpans start stop c.tile c.flip) { w with gs.seq.phase := .render, ret := s.ret } = .next r →
    exec (.drawTri c) s = .next { r with gs.seq.phase := .idle }

/-- The rectangles are their `DRAW_TRI` (R150), and complete when that has a meaning: `YL | 3` in copy and fill mode, edges at
`XL << 14` and `XH << 14`, texture coefficients shifted into 16.16. -/
def Obligations.RectanglesExpandToDrawTri : Prop :=
  ∀ (m : State) (xl yl xh yh : BitVec 12) (tile : BitVec 3) (s t dsdx dtdy : BitVec 16),
    ∃ (y : BitVec 14) (l h s0 t0 ds dt : Word),
      (y.toNat = if Om.cycleType m.gs.om = 2 ∨ Om.cycleType m.gs.om = 3 then yl.toNat / 4 * 4 + 3 else yl.toNat) ∧
      l.toNat = xl.toNat * 0x4000 ∧ h.toNat = xh.toNat * 0x4000 ∧ s0.toInt = s.toInt * 0x10000 ∧ t0.toInt = t.toInt * 0x10000 ∧
      ds.toInt = dsdx.toInt * 0x800 ∧ dt.toInt = dtdy.toInt * 0x800 ∧
      (let fill : TriCmd :=
         { shade := false, texture := false, zbuf := false, flip := true, level := 0, tile := 0
           yl := y, ym := y, yh := yh.setWidth 14, xl := l, xh := h, xm := l, dxldy := 0, dxhdy := 0, dxmdy := 0
           r := ⟨0, 0, 0, 0⟩, g := ⟨0, 0, 0, 0⟩, b := ⟨0, 0, 0, 0⟩, a := ⟨0, 0, 0, 0⟩
           s := ⟨0, 0, 0, 0⟩, t := ⟨0, 0, 0, 0⟩, w := ⟨0, 0, 0, 0⟩, z := ⟨0, 0, 0, 0⟩ }
       let tex : TriCmd := { fill with texture := true, tile := tile, s := ⟨s0, ds, 0, 0⟩, t := ⟨t0, 0, dt, dt⟩ }
       exec (.fillRect xl yl xh yh) m = exec (.drawTri fill) m ∧
       exec (.texRect xl yl tile xh yh s t dsdx dtdy) m = exec (.drawTri tex) m ∧
       (Drawable m → (∃ f, exec (.fillRect xl yl xh yh) m = .next f) ∧
         ∃ r, exec (.texRect xl yl tile xh yh s t dsdx dtdy) m = .next r))

/-- `EDGEWALK` completes on every record (R174, R176): the intake, the slope registers, and nothing else but the span buffer, the
per-scanline flags and the sequencer position. The depth slope (R178): the magnitudes of the integer parts are added and
rounded up; "The result is always 1, 3 or a power of two between 4 and 0x8000." -/
def Obligations.EdgewalkSlopesAndFrame : Prop :=
  (∀ (s : State) (c : TriCmd), ∃ t, exec (.edgewalk c) s = .next t ∧
     t = { s with
       gs.span := t.gs.span, gs.slopes := t.gs.slopes, gs.flags := t.gs.flags, gs.seq.k := t.gs.seq.k
       gs.misc.maxLevel := c.level, ret := t.ret } ∧
     t.gs.flags = { s.gs.flags with
       flip := c.flip, allover := t.gs.flags.allover, allunder := t.gs.flags.allunder, allinval := t.gs.flags.allinval } ∧
     (let sl := t.gs.slopes
      let color := fun (k : Coeff) (d : Word) (cd dy : BitVec 13) =>
        d.toInt = k.dx.toInt / 32 * 32 ∧ cd.toInt = (d.toInt / 0x4000).bmod 0x2000 ∧ dy.toInt = (k.dy.toInt / 0x4000).bmod 0x2000
      let coordinate := fun (k : Coeff) (d dy : Word) =>
        d.toInt = k.dx.toInt / 32 * 32 ∧ dy.toInt = k.dy.toInt / 0x8000 * 0x8000
      let shade := fun (k : Coeff) => if c.shade then k else ⟨0, 0, 0, 0⟩
      let texture := fun (k : Coeff) => if c.texture then k else ⟨0, 0, 0, 0⟩
      let depth : Coeff := if c.zbuf then c.z else ⟨0, 0, 0, 0⟩
      color (shade c.r) sl.dr sl.cdr sl.drdy ∧ color (shade c.g) sl.dg sl.cdg sl.dgdy ∧
      color (shade c.b) sl.db sl.cdb sl.dbdy ∧ color (shade c.a) sl.da sl.cda sl.dady ∧
      coordinate (texture c.s) sl.ds sl.dsdy ∧ coordinate (texture c.t) sl.dt sl.dtdy ∧
      coordinate (texture c.w) sl.dw sl.dwdy ∧
      sl.dz = depth.dx ∧ sl.cdz.toInt = (depth.dx.toInt / 0x400).bmod 0x400000 ∧
      sl.dzdy.toInt = (depth.dy.toInt / 0x400).bmod 0x400000)) ∧
  (∀ (s t : State) (c : TriCmd), exec (.edgewalk c) s = .next t →
     let mag := fun (v : Word) => if v.toInt / 0x10000 < 0 then -(v.toInt / 0x10000) - 1 else v.toInt / 0x10000
     let sum := if c.zbuf then mag c.z.dx + mag c.z.dy else 0
     let d := t.gs.slopes.dzpix.toNat
     (sum = 0 → d = 1) ∧ (sum = 1 → d = 3) ∧ (0x4000 ≤ sum → d = 0x8000) ∧
     (2 ≤ sum → sum < 0x4000 → ∃ k, d = 2 ^ k ∧ (d : Int) / 2 ≤ sum ∧ sum < d) ∧
     (d = 1 ∨ d = 3 ∨ ∃ k, 2 ≤ k ∧ k ≤ 15 ∧ d = 2 ^ k))

/-- What `EDGEWALK` does to the span buffer, in closed form. The limits it returns are R172's; every entry outside the scanlines
it visits is unchanged, but the one after the last, whose `validline` it clears (R180). Each visited entry holds: the scissored
crossings of both edges at its four quarter-scanlines (R182), the edges being advanced by their increments and the minor one
switched at `ym` (R180, R192); the sub-scanline validity (R184); `unscrx` and the attributes at the integer x of the major edge
(R186, R192); `lx` and `rx`, the bounds of the valid crossings (R188); and `validline`, the whole formula of R190. -/
def Obligations.EdgewalkStoresOnlyItsScanlines : Prop :=
  ∀ (s t : State) (c : TriCmd), exec (.edgewalk c) s = .next t →
    let clip := s.gs.clip
    let hi := yHighLimit c.yh clip.yh / 4
    let lo := yLowLimit c.yl clip.yl / 4
    let last := if lo < c.yl.toInt / 4 then lo + 1 else lo
    t.ret = .limits (BitVec.ofInt 12 hi) (BitVec.ofInt 12 lo) ∧
    (∀ j : Int, ¬ (hi ≤ j ∧ j ≤ last) → ¬ (last = lo ∧ 0 ≤ lo ∧ j = lo + 1) → t.spanAt j = s.spanAt j) ∧
    (0 ≤ lo → lo < 1023 → last = lo → t.spanAt (lo + 1) = { s.spanAt (lo + 1) with validline := false }) ∧
    (0 ≤ lo → lo < 1023 → hi ≤ lo + 1 → (t.spanAt (lo + 1)).validline = false) ∧
    (∀ j : Int, hi ≤ j → j ≤ last → 0 ≤ j → j < 1024 →
      let e := t.spanAt j
      let first := c.yh.toInt / 4
      let ym := c.ym.toInt
      let edge := fun (x slope : Word) (n : Int) =>
        ((x.toInt.bmod (2 ^ 28)) / 2 * 2 + n * ((slope.toInt.bmod (2 ^ 30)) / 4 / 2 * 2)).bmod (2 ^ 32)
      let right := fun (k : Int) => edge c.xh c.dxhdy (k - 4 * first)
      let left := fun (k : Int) =>
        if 4 * first ≤ ym ∧ ym ≤ k then edge c.xl c.dxldy (k - ym) else edge c.xm c.dxmdy (k - 4 * first)
      let cross := fun (x : Int) => crossing (2 * clip.xh.toNat) (2 * clip.xl.toNat) (x % 2 ^ 28)
      let key := fun (x : Int) => (x + 2 ^ 27) % 2 ^ 28 / 2 ^ 14
      let inval := fun (k : Int) => k < yHighLimit c.yh clip.yh ∨ yLowLimit c.yl clip.yl ≤ k ∨
        (if c.flip then key (left k) < key (right k) else key (right k) < key (left k))
      let quarter := fun (n : Fin 4) => 4 * j + (n.val : Int)
      let sign := c.dxhdy.toInt < 0
      let major := right (if sign ↔ c.flip = true then 4 * j + 3 else 4 * j)
      let latched := fun (k : Coeff) (v : Word) =>
        let de := k.de.toInt / 512 * 512
        let dy := k.dy.toInt / 512 * 512
        let diff := if sign ↔ c.flip = true then de - de / 4 - dy + dy / 4 else 0
        let dxh := if Om.cycleType s.gs.om = 2 then 0 else k.dx.toInt / 256 / 2 * 2
        v.toInt = (((k.base.toInt + (j - first) * k.de.toInt) / 512 * 512 + diff - major / 256 % 256 * dxh) / 1024 * 1024).bmod
          (2 ^ 32)
      let shade := fun (k : Coeff) => if c.shade then k else ⟨0, 0, 0, 0⟩
      let texture := fun (k : Coeff) => if c.texture then k else ⟨0, 0, 0, 0⟩
      let depth : Coeff := if c.zbuf then c.z else ⟨0, 0, 0, 0⟩
      let largest := fun (edge : Int → Int) (v : BitVec 12) =>
        (∀ n, ¬ inval (quarter n) → (cross (edge (quarter n))).xsc / 8 % 0x1000 ≤ v.toNat) ∧
        (v = 0 ∨ ∃ n, ¬ inval (quarter n) ∧ (cross (edge (quarter n))).xsc / 8 % 0x1000 = v.toNat)
      let smallest := fun (edge : Int → Int) (v : BitVec 12) =>
        (∀ n, ¬ inval (quarter n) → (v.toNat : Int) ≤ (cross (edge (quarter n))).xsc / 8 % 0x1000) ∧
        (v = 0xFFF ∨ ∃ n, ¬ inval (quarter n) ∧ (cross (edge (quarter n))).xsc / 8 % 0x1000 = v.toNat)
      (∀ n : Fin 4, (e.majorx[n].toNat : Int) = (cross (right (quarter n))).xsc % 0x2000 ∧
        (e.minorx[n].toNat : Int) = (cross (left (quarter n))).xsc % 0x2000 ∧
        (e.invalyscan[n] = true ↔ inval (quarter n))) ∧
      e.unscrx.toInt = (major / 0x10000).bmod 0x1000 ∧
      latched (shade c.r) e.attrs.r ∧ latched (shade c.g) e.attrs.g ∧ latched (shade c.b) e.attrs.b ∧
      latched (shade c.a) e.attrs.a ∧ latched (texture c.s) e.attrs.s ∧ latched (texture c.t) e.attrs.t ∧
      latched (texture c.w) e.attrs.w ∧ latched depth e.attrs.z ∧
      (c.flip = true → largest left e.lx ∧ smallest right e.rx) ∧
      (c.flip = false → smallest left e.lx ∧ largest right e.rx) ∧
      (e.validline = true ↔
        (∃ n, ¬ inval (quarter n)) ∧
        (∃ n, ¬ ((cross (right (quarter n))).isOver = true ∧ (cross (left (quarter n))).isOver = true)) ∧
        (∃ n, ¬ ((cross (right (quarter n))).isUnder = true ∧ (cross (left (quarter n))).isUnder = true)) ∧
        (clip.scfield = true → (clip.sckeepodd = true ↔ j % 2 = 1)) ∧
        j % s.gs.misc.stride = s.gs.misc.workerOffset))

/-! ### Renderers -/

/-- `RENDER_SPANS` is the renderer that `gs.om.cycle_type` selects (R146, R194). The cycle and copy renderers complete when every
texel they may fetch has a meaning, and `RENDER_FILL` in every configuration that does not crash (R570); they leave TMEM, the span
buffer, the slope registers and the control registers as they were. On a span of one pixel `RENDER_1CYCLE` and `RENDER_2CYCLE`
(`two`) are their stage operations in the order of R212, R214 and R232, each run on the state that the one before it leaves and on
what that one returned (the latch and the position in `gs.seq` are the model's choice, log entries 4, 11 and 23). -/
def Obligations.RenderersComplete : Prop :=
  (∀ (s : State) (start stop : BitVec 12) (tilenum : BitVec 3) (flip : Bool),
     (Om.cycleType s.gs.om = 0 → exec (.renderSpans start stop tilenum flip) s = exec (.render1cycle start stop tilenum flip) s) ∧
     (Om.cycleType s.gs.om = 1 → exec (.renderSpans start stop tilenum flip) s = exec (.render2cycle start stop tilenum flip) s) ∧
     (Om.cycleType s.gs.om = 2 → exec (.renderSpans start stop tilenum flip) s = exec (.renderCopy start stop tilenum flip) s) ∧
     (Om.cycleType s.gs.om = 3 → exec (.renderSpans start stop tilenum flip) s = exec (.renderFill start stop flip) s) ∧
     (Drawable s → ∃ t, exec (.renderSpans start stop tilenum flip) s = .next t)) ∧
  (∀ (s : State) (start stop : BitVec 12) (tilenum : BitVec 3) (flip : Bool),
     (∀ i, i = .render1cycle start stop tilenum flip ∨ i = .render2cycle start stop tilenum flip → TilesFetchable s →
       ∃ t, exec i s = .next t ∧ SameControl s t ∧ SameTmem s t ∧ t.gs.span = s.gs.span ∧ t.gs.slopes = s.gs.slopes ∧
         t.gs.misc = s.gs.misc ∧ t.gs.der = s.gs.der ∧ t.ret = s.ret) ∧
     (TilesFetchable s → s.gs.img.fbSize = 2 → Om.texLodEn s.gs.om = false →
       (Om.enTlut s.gs.om = true ∨ ∀ n : BitVec 3, (s.tile n).size = 2) →
       ∃ t, exec (.renderCopy start stop tilenum flip) s = .next t ∧
         t = { s with ram := t.ram, hidden := t.hidden, gs.seq := t.gs.seq }) ∧
     (crashConfig 3 s = false → ∃ t, exec (.renderFill start stop flip) s = .next t ∧
       t = { s with ram := t.ram, hidden := t.hidden, gs.seq := t.gs.seq, gs.cvgbuf := t.gs.cvgbuf })) ∧
  (∀ (s : State) (i : BitVec 12) (tilenum : BitVec 3) (flip two : Bool), TilesFetchable s →
     (s.spanAt i.toInt).validline = true → (s.spanAt i.toInt).lx = (s.spanAt i.toInt).rx →
     let sp := s.spanAt i.toInt
     let sl := s.gs.slopes
     let prim := Om.zSourceSel s.gs.om
     let step := fun (v : Word) => if flip then v else -v
     let scdiff := BitVec.ofInt 32 ((if flip then sp.rx.toNat - sp.unscrx.toInt else sp.unscrx.toInt - sp.rx.toNat) % 4096)
     let start := fun (v d : Word) => v + step d * scdiff
     let z := if prim then s.gs.misc.primitiveZ else start sp.attrs.z sl.dz
     let dzpix := if prim then s.gs.misc.primitiveDeltaZ else sl.dzpix
     let p := s.gs.img.fbWidth.setWidth 32 * BitVec.ofInt 32 i.toInt + sp.rx.setWidth 32
     let zp := (s.gs.img.zbAddress.setWidth 32 >>> 1) + p
     let tex : TexOperands :=
       { s := start sp.attrs.s sl.ds, t := start sp.attrs.t sl.dt, w := start sp.attrs.w sl.dw
         dsinc := step sl.ds, dtinc := step sl.dt, dwinc := step sl.dw
         tilenum := tilenum, i := i.setWidth 10, j := 0, length := 0 }
     ∃ (s1 s2 s3 s4 s5 s6 s7 s8 s9 s10 : State) (ox oy : BitVec 2) (n n' n'' : BitVec 4) (bit pass w : Bool)
       (sz : BitVec 18) (cd : BitVec 15) (ad mc : BitVec 3) (ac : BitVec 9) (rgb : Rgb 8),
       (∀ m ∈ [s3, s4, s5, s6, s7, s8], m.ret = s.ret) ∧
       exec (.cvgBuild (i.setWidth 10) flip) { s with gs.seq.i := i.setWidth 10 } = .next s1 ∧
       (let m := { s1 with gs.seq.j := 0, gs.seq.x := sp.rx, gs.seq.cycle := 0 }
        exec (.cvgLookup (s1.cvgAt sp.rx.toNat)) m = .next { m with ret := .lookup ox oy n bit } ∧
        exec (if two then .texture2cycle tex else .texture1cycle tex) { m with gs.flags.cvbit := bit } = .next s2) ∧
       exec (.rgbazCorrect
         { offx := ox, offy := oy, cvg := n
           sr := (start sp.attrs.r sl.dr).extractLsb' 14 18, sg := (start sp.attrs.g sl.dg).extractLsb' 14 18
           sb := (start sp.attrs.b sl.db).extractLsb' 14 18, sa := (start sp.attrs.a sl.da).extractLsb' 14 18
           sz := z.extractLsb' 10 22, cdz := if prim then 0 else sl.cdz, dzdy := if prim then 0 else sl.dzdy }) s2 =
         .next { s3 with ret := .depth sz } ∧
       exec (.ditherNoise sp.rx i 7 0) s3 = .next { s4 with ret := .dither cd ad } ∧
       exec (if two then .combine2cycle ad n else .combine1cycle ad n) s4 =
         .next { s5 with ret := if two then .combine2 ac n' else .cvg n' } ∧
       exec (selectFbRead s.gs.img.fbSize p two) s5 = .next { s6 with ret := .memcvg mc } ∧
       exec (.zcompare ⟨zp, sz, dzpix, dzCompress dzpix, n', mc⟩) s6 = .next { s7 with ret := .zpass pass n'' } ∧
       (let o : BlendOperands := ⟨cd, s7.gs.flags.blendEn, s7.gs.flags.prewrap, n'', bit⟩
        exec (if two then .blend2cycle o ac else .blend1cycle o) s7 = .next { s8 with ret := .blended w rgb }) ∧
       exec (selectFbWrite s.gs.img.fbSize ⟨p, rgb.r, rgb.g, rgb.b, s7.gs.flags.blendEn, n'', mc⟩) s8 = .next s9 ∧
       exec (.zStore zp sz (dzCompress dzpix)) s9 = .next s10 ∧
       (let failed := if two then { s7 with gs.col.memory := s7.gs.col.preMemory } else s7
        exec (if two then .render2cycle i i tilenum flip else .render1cycle i i tilenum flip) s =
          .next (if pass then (if w then (if Om.zUpdateEn s.gs.om then s10 else s9) else s8) else failed)))

/-- Where the renderers may store. The cycle renderers store only in the pixels of the valid spans of their scanlines, in the
colour image and in the depth image (R212, R214, R428, R491), the copy and fill renderers only in the colour image. A hidden entry
goes with the odd byte of its 16-bit unit (R87): entry `u` changes only if byte `2 * u + 1` is one of those bytes. -/
def Obligations.RenderersStoreOnlyInTheirSpans : Prop :=
  ∀ (s t : State) (start stop : BitVec 12) (tilenum : BitVec 3) (flip : Bool),
    let drawn := fun (index : Int → Int → Word) (bytes : Word → Nat → Prop) (a : Nat) =>
      ∃ i j : Int, start.toInt ≤ i ∧ i ≤ stop.toInt ∧ inSpan s flip i j ∧ bytes (index i j) a
    let onlyIn := fun (W : Nat → Prop) => SameRamOutside W (fun u => W (2 * u + 1)) s t
    (∀ i, i = .render1cycle start stop tilenum flip ∨ i = .render2cycle start stop tilenum flip → exec i s = .next t →
      onlyIn (drawn (pixelIndex s flip) (fun p a => fbBytes s p a ∨ zBytes s p a))) ∧
    (exec (.renderCopy start stop tilenum flip) s = .next t → onlyIn (drawn (pixelIndexAt s flip) (fbBytes s))) ∧
    (exec (.renderFill start stop flip) s = .next t → onlyIn (drawn (pixelIndexAt s flip) (fbBytes s)))

/-- What the fill and the copy renderer write on one scanline. Fill mode writes "the constant fill color ... for every covered
pixel" (R250): every pixel of the span with a coverage count above zero holds the packed fill colour of R510, and the bytes of a
pixel with count zero are as before. Copy mode (R240): pixel `j` of the span holds texel `j % 4` of the group `j / 4`, whose
coordinates advanced once per group, with its alpha bit in the hidden entry, or is as before where alpha compare rejects it. -/
def Obligations.FillAndCopyWriteTheirPixels : Prop :=
  (∀ (s t : State) (i : BitVec 12) (flip : Bool) (j : Int),
    crashConfig 3 s = false → exec (.renderFill i i flip) s = .next t → inSpan s flip i.toInt j →
    let covered := (cvlut ((s.cvgBuild i.toInt flip).cvgAt (pixelX s flip i.toInt j).toNat)).cvg ≠ 0
    let p := pixelIndexAt s flip i.toInt j
    let c := s.gs.misc.fillColor.toNat
    (covered →
      (s.gs.img.fbSize = 1 → (t.rd8 (s.fbIndex8 p)).toNat = c / 0x1000000) ∧
      (s.gs.img.fbSize = 2 → (t.rd16 (s.fbIndex16 p)).toNat =
        c / 0x8000000 * 2048 + c / 0x80000 % 32 * 64 + c / 0x800 % 32 * 2 + c / 0x80 % 2) ∧
      (s.gs.img.fbSize = 3 → (t.rd32 (s.fbIndex32 p)).toNat = c)) ∧
    (¬ covered → ∀ a, fbBytes s p a → t.ramByte a = s.ramByte a)) ∧
  (∀ (s t : State) (i : BitVec 12) (tilenum : BitVec 3) (flip : Bool) (j : Int),
    s.gs.img.fbSize = 2 → exec (.renderCopy i i tilenum flip) s = .next t → inSpan s flip i.toInt j →
    let a := (s.spanAt i.toInt).attrs
    let at16 := fun (v d : Word) => BitVec.ofInt 16 ((v.toInt + j / 4 * (if flip then d.toInt else -d.toInt)) / 0x10000)
    let unit := s.fbIndex16 (pixelIndexAt s flip i.toInt j)
    ∃ (ss st : BitVec 19) (u v texel : BitVec 16),
      exec (selectTcDiv s.gs.der.persp (at16 a.s s.gs.slopes.ds) (at16 a.t s.gs.slopes.dt) (at16 a.w s.gs.slopes.dw)) s =
        .next { s with ret := .coords19 ss st } ∧
      exec (.lodCopy ss st tilenum) s = .next { s with ret := .lodCopy u v tilenum } ∧
      exec (.copyTexel16 tilenum u v (BitVec.ofInt 2 j)) s = .next { s with ret := .texel16 texel } ∧
      t.pairRd16 unit = (if Om.alphaCompareEn s.gs.om = false ∨ texel.getLsbD 0 = true
        then (texel, if texel.getLsbD 0 then 3 else 0) else s.pairRd16 unit))

/-- The assertions of the spec are refusals, and where they lie (R160, R240, R288, R340, R576): a reserved tile format when a
texel is fetched, copy mode on a 4 or 8 bpp framebuffer, LOD in copy mode, a copy texel of another size without TLUT. That the
assertion on formats holds for a fetch through the table and in copy mode too is the model's reading (log entry 18). -/
def Obligations.AssertionsAreRefused : Prop :=
  ∀ (m : State) (n : BitVec 3) (s row : BitVec 13) (sss sst : BitVec 19) (c d : BitVec 16) (p : BitVec 2)
    (start stop : BitVec 12) (flip : Bool),
    (20 ≤ (m.tile n).notlutswitch.toNat → exec (.tmemFetch1 n s row) m = .refused .reservedTileFormat) ∧
    (5 ≤ (m.tile n).format.toNat → (∀ sd td u, exec (.tmemFetchTlut n s sd row td u) m = .refused .reservedTileFormat) ∧
      exec (.copyTexel16 n c d p) m = .refused .reservedTileFormat) ∧
    (m.gs.img.fbSize.toNat < 2 → exec (.renderCopy start stop n flip) m = .refused .copyFramebufferSize) ∧
    (Om.texLodEn m.gs.om = true → exec (.lodCopy sss sst n) m = .refused .copyLevelOfDetail) ∧
    ((m.tile n).format.toNat < 5 → Om.enTlut m.gs.om = false → (m.tile n).size ≠ 2 →
      exec (.copyTexel16 n c d p) m = .refused .copyTexelSize)

/-- `RGBAZ_CORRECT` (R226): the shade colour through `clamp9`, the depth saturated to the far plane above and to 0 below. -/
def Obligations.GradientCorrection : Prop :=
  ∀ (s : State) (o : CorrectOperands), ∃ (shade : Color 8) (sz : BitVec 18),
    exec (.rgbazCorrect o) s = .next { s with gs.col.shade := shade, ret := .depth sz } ∧
    (let ch := fun (v : BitVec 18) (dx dy : BitVec 13) =>
       clamped9 (if o.cvg = 8 then v.toInt / 4 else (4 * v.toInt + o.offx.toNat * dx.toInt + o.offy.toNat * dy.toInt) / 16)
     let cz : Int := if o.cvg = 8 then o.sz.toNat / 8
       else (4 * o.sz.toNat + o.offx.toNat * o.cdz.toInt + o.offy.toNat * o.dzdy.toInt) / 32
     (shade.r.toNat : Int) = ch o.sr s.gs.slopes.cdr s.gs.slopes.drdy ∧
     (shade.g.toNat : Int) = ch o.sg s.gs.slopes.cdg s.gs.slopes.dgdy ∧
     (shade.b.toNat : Int) = ch o.sb s.gs.slopes.cdb s.gs.slopes.dbdy ∧
     (shade.a.toNat : Int) = ch o.sa s.gs.slopes.cda s.gs.slopes.dady ∧
     (sz.toNat : Int) = (if cz / 0x20000 % 4 < 2 then cz % 0x40000 else if cz / 0x20000 % 4 = 2 then 0x3FFFF else 0))

/-! ### Texture coordinates -/

/-- `TC_DIV`, both variants (R264, R266), and `TC_CLAMP17` (R268). The reciprocal table is the OPEN parameter `tcdiv_rcp`: the
statement holds for every table. Bits 16:0 are the shifted product, bit 17 marks overflow below, bit 18 overflow above or a
`w` that is not positive; the marks saturate in `TC_CLAMP17`, and without marks the coordinate saturates to 16 bits. -/
def Obligations.CoordinateDivideAndClamp : Prop :=
  (∀ (m : State) (ss st sw : BitVec 16),
     (∃ s t : BitVec 19, exec (.tcDivNonpersp ss st sw) m = .next { m with ret := .coords19 s t } ∧
       (s.toNat : Int) = ss.toInt % 0x20000 ∧ (t.toNat : Int) = st.toInt % 0x20000) ∧
     (∃ s t : BitVec 19, exec (.tcDivPersp ss st sw) m = .next { m with ret := .coords19 s t } ∧
       (let e := Config.tcdivRcp (sw.setWidth 15)
        let axis := fun (c : BitVec 16) (r : BitVec 19) =>
          let prod : Int := c.toInt * e.rcp.toNat
          let high := prod % 0x40000000 / 2 ^ (29 - e.shift.val)
          let overflows := high ≠ 0 ∧ high ≠ 2 ^ (e.shift.val + 1) - 1
          ((r.toNat : Int) % 0x20000 =
            (if e.shift.val = 14 then 2 * prod else prod / 2 ^ (13 - e.shift.val)) % 0x20000) ∧
          (r.getLsbD 17 = true ↔ overflows ∧ prod / 0x20000000 % 2 = 1) ∧
          (r.getLsbD 18 = true ↔ (overflows ∧ prod / 0x20000000 % 2 = 0) ∨ sw.toInt ≤ 0)
        axis ss s ∧ axis st t))) ∧
  (∀ (m : State) (c : BitVec 19), ∃ r : BitVec 16,
     exec (.tcClamp17 c) m = .next { m with ret := .coord16 r } ∧
     r.toInt = (if c.getLsbD 18 then 0x7FFF else if c.getLsbD 17 then -0x8000
       else max (-0x8000) (min 0x7FFF ((c.toNat : Int).bmod 0x20000))))

/-- `TC_SHIFT`, `TC_CLAMP`, `TC_MASK` and `TC_MASK_COUPLED` (R270 to R274): the shifted coordinate and whether it is past the
tile, the clamp, the coordinate modulo the mask's width, mirrored in an odd repetition, and the step to the neighbouring tap. -/
def Obligations.CoordinateShiftClampMask : Prop :=
  (∀ (m : State) (c : BitVec 16) (shift : BitVec 4) (sh : BitVec 12), ∃ (r : BitVec 17) (atEnd : Bool),
    exec (.tcShift c shift sh) m = .next { m with ret := .shifted r atEnd } ∧
    r.toInt = (if shift.toNat < 11 then c.toInt / 2 ^ shift.toNat else (c.toInt * 2 ^ (16 - shift.toNat)).bmod 0x10000) ∧
    (atEnd = true ↔ (sh.toNat : Int) ≤ r.toInt / 8)) ∧
  (∀ (m : State) (c : BitVec 17) (frac : BitVec 5) (atEnd clampen : Bool) (clampdiff : BitVec 10),
    ∃ (r : BitVec 12) (f : BitVec 5),
    exec (.tcClamp c frac atEnd clampen clampdiff) m = .next { m with ret := .clamped r f } ∧
    (if clampen = true ∧ atEnd = true then r.toNat = clampdiff.toNat ∧ f = 0
      else if clampen = true ∧ c.toInt < 0 then r = 0 ∧ f = 0
      else r.toInt = c.toInt / 32 ∧ f = frac)) ∧
  (∀ (m : State) (c : BitVec 12) (mask : BitVec 4) (mirror : Bool) (maskclamped : BitVec 4), ∃ (r q : BitVec 12) (diff : BitVec 11),
     exec (.tcMask c mask mirror maskclamped) m = .next { m with ret := .masked r } ∧
     exec (.tcMaskCoupled c mask mirror maskclamped) m = .next { m with ret := .coupled q diff } ∧ q = r ∧
     (let w : Int := 2 ^ (min mask.toNat 10)
      let odd := mirror = true ∧ c.toInt / 2 ^ maskclamped.toNat % 2 = 1
      (mask = 0 → r = c ∧ diff = 1) ∧
      (mask ≠ 0 → odd → (r.toNat : Int) = w - 1 - c.toInt % w ∧ diff.toInt = if r.toNat = 0 then 0 else -1) ∧
      (mask ≠ 0 → ¬ odd → (r.toNat : Int) = c.toInt % w ∧
        diff.toInt = if (r.toNat : Int) = w - 1 then (if mirror then 0 else -(r.toNat : Int)) else 1)))

/-! ### Filter arms -/

/-- The filter arms: `ARM_POINT`, `ARM_POINT_CONVERT` (R277); `ARM_LERP`, `ARM_LERP_CONVERT` (R278, R279): the triangle of the
quad by the fraction sum, the rounded mean of the four taps at the centre with `mid_texel`, signed chroma with the shared
fraction for a YUV tile, weights from the previous texel; `ARM_YUV1`, `ARM_YUV4` (R280) with K0 to K3 signed. That
`ARM_LERP_CONVERT` reads its taps unsigned, for a YUV tile too, is the model's reading (log entry 28). -/
def Obligations.FilterArms : Prop :=
  (∀ (m : State) (prev q0 : Color 9),
     exec (.armPoint q0) m = .next { m with ret := .texel q0 } ∧
     exec (.armPointConvert prev) m = .next { m with ret := .texel ⟨prev.b, prev.b, prev.b, prev.b⟩ }) ∧
  (∀ (m : State) (prev : Color 9) (q : Quad) (sfrac tfrac : BitVec 5) (odd yuv upper : Bool), ∃ x y : Color 9,
     exec (.armLerp q sfrac tfrac odd yuv) m = .next { m with ret := .texel x } ∧
     exec (.armLerpConvert prev q upper) m = .next { m with ret := .texel y } ∧
     (let lerp := fun (sf tf q0 q1 q2 q3 : Int) =>
        if Om.midTexel m.gs.om = true ∧ sf = 16 ∧ tf = 16 then q3 + (64 * (q0 + q1 + q2 - 3 * q3) + 128) / 256
        else if 32 ≤ sf + tf then q3 + ((32 - sf) * (q2 - q3) + (32 - tf) * (q1 - q3) + 16) / 32
        else q0 + (sf * (q1 - q0) + tf * (q2 - q0) + 16) / 32
      let sfRg : Int := if yuv then (sfrac.toNat / 2 : Int) + (if odd then 16 else 0) else sfrac.toNat
      let rg := fun (f : Color 9 → BitVec 9) =>
        let v := fun (c : Color 9) => if yuv then (f c).toInt else ((f c).toNat : Int)
        lerp sfRg tfrac.toNat (v q.q0) (v q.q1) (v q.q2) (v q.q3)
      let ba := fun (f : Color 9 → BitVec 9) =>
        lerp sfrac.toNat tfrac.toNat (f q.q0).toNat (f q.q1).toNat (f q.q2).toNat (f q.q3).toNat
      let conv := fun (f : Color 9 → BitVec 9) =>
        let v := fun (c : Color 9) => ((f c).toNat : Int)
        (prev.b.toNat : Int) +
          (if upper then prev.r.toInt * (v q.q2 - v q.q3) + prev.g.toInt * (v q.q1 - v q.q3) + 128
           else prev.r.toInt * (v q.q1 - v q.q0) + prev.g.toInt * (v q.q2 - v q.q0) + 128) / 256
      IsTexel x (rg Color.r) (rg Color.g) (ba Color.b) (ba Color.a) ∧
      IsTexel y (conv Color.r) (conv Color.g) (conv Color.b) (conv Color.a))) ∧
  (∀ (m : State) (prev q0 : Color 9) (q : Quad) (convert upper upperRg : Bool), ∃ x y : Color 9,
     exec (.armYuv1 prev q0 convert) m = .next { m with ret := .texel x } ∧
     exec (.armYuv4 prev q convert upper upperRg) m = .next { m with ret := .texel y } ∧
     (let k := m.gs.sca
      let rgb := fun (out : Color 9) (u v luma : BitVec 9) =>
        IsTexel out (luma.toNat + (k.k0.toInt * v.toInt + 128) / 256)
          (luma.toNat + (k.k1.toInt * u.toInt + k.k2.toInt * v.toInt + 128) / 256)
          (luma.toNat + (k.k3.toInt * u.toInt + 128) / 256) luma.toNat
      let t1 := if convert then prev else q0
      let chroma := if convert then prev else if upperRg then q.q3 else q.q0
      let luma := if convert then prev else if upper then q.q3 else q.q0
      rgb x t1.r t1.g t1.b ∧ rgb y chroma.r chroma.g luma.b))

/-- `TEX_CYCLE` (R276). Point-sample path: shift, tile-relative, clamp without fraction, mask, one texel. Four-tap path: the quad
at the masked coordinates and their steps. Then the arm of `bi_lerp` and `convert_one`. R278 defines `upper_rg` for a YUV tile
only; that `ARM_YUV4` gets `upper` in its place for any other tile is the model's choice (log entry 15). -/
def Obligations.TexCycleSelectsArm : Prop :=
  (∀ (m : State) (prev q0 : Color 9) (sss sst : BitVec 16) (n : BitVec 3) (cycle : Bool),
     let t := m.tile n
     let axis := fun (c : BitVec 16) (shift : BitVec 4) (hi lo : BitVec 12) (clampen : Bool) (diff : BitVec 10) (mask : BitVec 4)
         (mirror : Bool) (mc : BitVec 4) =>
       (tcMask (tcClamp (tileRelative (tcShift c shift hi).1 lo) 0 (tcShift c shift hi).2 clampen diff).1 mask mirror mc).signExtend 13
     let bilerp := if cycle then Om.biLerp1 m.gs.om else Om.biLerp0 m.gs.om
     let convert := Om.convertOne m.gs.om && cycle
     Om.sampleType m.gs.om = false → Om.enTlut m.gs.om = false →
     exec (.tmemFetch1 n (axis sss t.shiftS t.sh t.sl t.clampens t.clampdiffs t.maskS t.ms t.masksclamped)
       (axis sst t.shiftT t.th t.tl t.clampent t.clampdifft t.maskT t.mt t.masktclamped)) m =
         .next { m with ret := .texel q0 } →
     exec (.texCycle prev sss sst n cycle) m =
       (if bilerp then if convert then exec (.armPointConvert prev) m else exec (.armPoint q0) m
        else exec (.armYuv1 prev q0 convert) m)) ∧
  (∀ (m : State) (prev : Color 9) (q : Quad) (sss sst : BitVec 16) (n : BitVec 3) (cycle : Bool),
     let t := m.tile n
     let clamp := fun (c : BitVec 16) (shift : BitVec 4) (hi lo : BitVec 12) (clampen : Bool) (diff : BitVec 10) =>
       tcClamp (tileRelative (tcShift c shift hi).1 lo) ((tileRelative (tcShift c shift hi).1 lo).setWidth 5)
         (tcShift c shift hi).2 clampen diff
     let cs := clamp sss t.shiftS t.sh t.sl t.clampens t.clampdiffs
     let ct := clamp sst t.shiftT t.th t.tl t.clampent t.clampdifft
     let ms := tcMaskCoupled cs.1 t.maskS t.ms t.masksclamped
     let mt := tcMaskCoupled ct.1 t.maskT t.mt t.masktclamped
     let upper := decide (32 ≤ cs.2.toNat + ct.2.toNat)
     let bilerp := if cycle then Om.biLerp1 m.gs.om else Om.biLerp0 m.gs.om
     let convert := Om.convertOne m.gs.om && cycle
     let odd := decide (ms.1.toNat % 2 = 1)
     let yuv := decide (t.format = 1)
     let upperRg := if yuv then decide (32 ≤ cs.2.toNat / 2 + (if odd then 16 else 0) + ct.2.toNat) else upper
     Om.sampleType m.gs.om = true ∨ Om.enTlut m.gs.om = true →
     exec (.tmemFetchQuad n (ms.1.signExtend 13) ms.2 (mt.1.signExtend 13) mt.2 upper) m = .next { m with ret := .quad q } →
     exec (.texCycle prev sss sst n cycle) m =
       (if bilerp then if convert then exec (.armLerpConvert prev q upper) m else exec (.armLerp q cs.2 ct.2 odd yuv) m
        else exec (.armYuv4 prev q convert upper upperRg) m))

/-- `TEX_CYCLE` and the two texture steps complete when no tile has a reserved format (R160, R218, R234, R276): they write the
texel registers and `gs.lod_frac` only, the variant deciding which. `NEXT_COORDS_1CYCLE` (R220): the next pixel, or at the end
of a long span the start of a valid next scanline. -/
def Obligations.TextureStepsComplete : Prop :=
  (∀ (m : State) (o : TexOperands) (prev : Color 9) (sss sst : BitVec 16) (n : BitVec 3) (cycle : Bool), TilesFetchable m →
     (∃ c, exec (.texCycle prev sss sst n cycle) m = .next { m with ret := .texel c }) ∧
     (∃ t, exec (.texture1cycle o) m = .next t ∧
       t = { m with gs.col.texel0 := t.gs.col.texel0, gs.col.texel1 := t.gs.col.texel1, gs.sca.lodFrac := t.gs.sca.lodFrac } ∧
       (m.gs.der.cycle1Mode = 0 → t.gs.col.texel0 = m.gs.col.texel0 ∧ t.gs.sca.lodFrac = m.gs.sca.lodFrac) ∧
       (m.gs.der.cycle1Mode ≠ 2 → t.gs.col.texel1 = m.gs.col.texel1)) ∧
     (∃ t, exec (.texture2cycle o) m = .next t ∧
       t = { m with gs.col.texel0 := t.gs.col.texel0, gs.col.texel1 := t.gs.col.texel1, gs.col.nexttexel := t.gs.col.nexttexel
                    gs.sca.lodFrac := t.gs.sca.lodFrac } ∧
       (m.gs.der.cycle2Mode = 0 → t = m) ∧
       (m.gs.der.cycle2Mode = 1 → t.gs.col.texel1 = m.gs.col.texel1) ∧
       (m.gs.der.cycle2Mode ≠ 3 → t.gs.col.nexttexel = m.gs.col.nexttexel))) ∧
  (∀ (m : State) (o : TexOperands), ∃ s t w : Word,
     exec (.nextCoords1cycle o) m = .next { m with ret := .coords32 s t w } ∧
     (let next := m.spanAt (o.i.toNat + 1)
      (o.j = o.length → 7 < o.length.toNat → next.validline = true →
        s = next.attrs.s ∧ t = next.attrs.t ∧ w = next.attrs.w) ∧
      (o.j ≠ o.length ∨ o.length.toNat ≤ 7 ∨ next.validline = false →
        s.toInt = (o.s.toInt + o.dsinc.toInt).bmod (2 ^ 32) ∧ t.toInt = (o.t.toInt + o.dtinc.toInt).bmod (2 ^ 32) ∧
        w.toInt = (o.w.toInt + o.dwinc.toInt).bmod (2 ^ 32))))

/-! ### Level of detail -/

/-- `LOD_1CYCLE`, `LOD_2CYCLE` and `LOD_COPY` (R284, R286, R288): the clamped coordinates, tile numbers modulo 8 chosen by the
signals of the pixel and its two neighbours, and the fraction, which stays the old one while LOD is not needed. That the neighbours
are the next pixel and the next scanline at the end of a span too is R284's, which claims no agreement there (log entry 30). -/
def Obligations.LevelOfDetailSelectsTiles : Prop :=
  ∀ (m : State) (sss sst : BitVec 19) (o : TexOperands), ∃ (t t1 t2 : BitVec 3) (lf : BitVec 9),
    exec (.lod1cycle sss sst o) m = .next { m with ret := .lod1 (tcClamp17 sss) (tcClamp17 sst) t lf } ∧
    exec (.lod2cycle sss sst o) m = .next { m with ret := .lod2 (tcClamp17 sss) (tcClamp17 sst) t1 t2 lf } ∧
    (Om.texLodEn m.gs.om = false →
      exec (.lodCopy sss sst o.tilenum) m = .next { m with ret := .lodCopy (tcClamp17 sss) (tcClamp17 sst) o.tilenum }) ∧
    (let wrap := fun (a b : Word) => BitVec.ofInt 16 ((a.toInt + b.toInt) / 0x10000)
     let nextx := m.tcDiv (wrap o.s o.dsinc) (wrap o.t o.dtinc) (wrap o.w o.dwinc)
     let nexty := m.tcDiv (wrap o.s m.gs.slopes.dsdy) (wrap o.t m.gs.slopes.dtdy) (wrap o.w m.gs.slopes.dwdy)
     let v := lodValue ⟨sss, sst⟩ nextx nexty
     let g := m.lodSignals v.1 v.2
     let level := if g.distant then m.gs.misc.maxLevel.toNat else g.lTile.toNat
     let base := o.tilenum.toNat + level
     let detail := Om.detailTexEn m.gs.om
     (m.gs.der.dolod = false → lf = m.gs.sca.lodFrac) ∧ (m.gs.der.dolod = true → lf = g.lodFrac) ∧
     (m.gs.der.dolod = false ∨ Om.texLodEn m.gs.om = false →
       t = o.tilenum ∧ t1 = o.tilenum ∧ t2.toNat = (o.tilenum.toNat + 1) % 8) ∧
     (m.gs.der.dolod = true → Om.texLodEn m.gs.om = true →
       t.toNat = (base + if detail = true ∧ g.magnify = false then 1 else 0) % 8 ∧ t1 = t ∧
       (detail = false → t2.toNat =
         (base + if g.distant = true ∨ (Om.sharpenTexEn m.gs.om = false ∧ g.magnify = true) then 0 else 1) % 8) ∧
       (detail = true → t2.toNat = (base + if g.distant = false ∧ g.magnify = false then 2 else 1) % 8)))

/-- `LOD_VALUE` and `LOD_SIGNALS` (R281, R282) on integers. The value is 0 with the mark when a coordinate is marked, else the
largest coordinate distance to a neighbour, with bit 14 set when that is 0x4000 or more. The signals: magnify below 32, distant
at the top or at `gs.max_level`, the fraction within the level. -/
def Obligations.LodValueAndSignals : Prop :=
  (∀ cur nextx nexty : Coord2,
     let marked := fun (c : Coord2) => 0x20000 ≤ c.s.toNat ∨ 0x20000 ≤ c.t.toNat
     let dist := fun (a b : BitVec 19) =>
       let d := (b.toNat : Int).bmod 0x20000 - (a.toNat : Int).bmod 0x20000
       if d < 0 then -d - 1 else d
     let far := max (max (dist cur.s nextx.s) (dist cur.t nextx.t)) (max (dist cur.s nexty.s) (dist cur.t nexty.t))
     ((lodValue cur nextx nexty).2 = true ↔ marked cur ∨ marked nextx ∨ marked nexty) ∧
     ((lodValue cur nextx nexty).2 = true → (lodValue cur nextx nexty).1 = 0) ∧
     ((lodValue cur nextx nexty).2 = false →
       (far < 0x4000 → ((lodValue cur nextx nexty).1.toNat : Int) = far) ∧
       (0x4000 ≤ far → 0x4000 ≤ (lodValue cur nextx nexty).1.toNat))) ∧
  (∀ (m : State) (lod : BitVec 15) (clamped : Bool),
     let g := m.lodSignals lod clamped
     let plain := Om.sharpenTexEn m.gs.om = false ∧ Om.detailTexEn m.gs.om = false
     let maxLevel := m.gs.misc.maxLevel.toNat
     let l := lod.toNat
     (0x4000 ≤ l ∨ clamped = true → g.lTile = 7 ∧ g.magnify = false ∧ g.distant = true ∧ g.lodFrac = 0xFF) ∧
     (l < 0x4000 → clamped = false → (g.magnify = true ↔ l < 32)) ∧
     (l < 32 → clamped = false → g.lTile = 0 ∧ (g.distant = true ↔ maxLevel = 0) ∧
       (plain → g.lodFrac.toNat = if maxLevel = 0 then 0xFF else 0) ∧
       (¬ plain → g.lodFrac.toNat = 8 * max m.gs.sca.minLevel.toNat l + if Om.sharpenTexEn m.gs.om then 0x100 else 0)) ∧
     (32 ≤ l → l < 0x4000 → clamped = false →
       (l / 32 % 256 = 0 → g.lTile = 0) ∧
       (l / 32 % 256 ≠ 0 → 2 ^ g.lTile.toNat ≤ l / 32 % 256 ∧ l / 32 % 256 < 2 * 2 ^ g.lTile.toNat) ∧
       (g.distant = true ↔ maxLevel ≤ g.lTile.toNat ∨ 0x2000 ≤ l) ∧
       g.lodFrac.toNat = if plain ∧ g.distant = true then 0xFF else 8 * l / 2 ^ g.lTile.toNat % 256))

/-! ### Texture memory -/

/-- The 4-bit and 8-bit arms (R308, R309, R311, R312, R315, R316, R319, R320, R323, R324): the nibble or byte at the swizzled
address (R301), expanded as each format says. That YUV 4 and YUV 8 run with the low-confidence effect of R311 and R312 is the
model's choice (log entry 29). -/
def Obligations.FetchSmallTexels : Prop :=
  ∀ (m : State) (n : BitVec 3) (s row : BitVec 13),
    let t := m.tile n
    let nib : Int := nibbleAt m t s row
    let byte : Int := byteAt m t s row
    let answers := fun (i : Instr) (r g b a : Int) =>
      ∃ c, exec i m = .next { m with ret := .texel c } ∧ IsTexel c r g b a
    let i3 := nib / 2 * 2
    let ia := i3 * 16 + i3 * 2 + i3 / 4
    (∀ i, i = .tmemFetchRgba4 n s row ∨ i = .tmemFetchYuv4 n s row ∨ i = .tmemFetchI4 n s row →
      answers i (17 * nib) (17 * nib) (17 * nib) (17 * nib)) ∧
    (∀ i, i = .tmemFetchRgba8 n s row ∨ i = .tmemFetchYuv8 n s row ∨ i = .tmemFetchCi8 n s row ∨ i = .tmemFetchI8 n s row →
      answers i byte byte byte byte) ∧
    (let p : Int := 16 * t.palette.toNat + nib
     answers (.tmemFetchCi4 n s row) p p p p) ∧
    answers (.tmemFetchIa4 n s row) ia ia ia (if nib % 2 = 1 then 255 else 0) ∧
    answers (.tmemFetchIa8 n s row) (17 * (byte / 16)) (17 * (byte / 16)) (17 * (byte / 16)) (17 * (byte % 16))

/-- The 16-bit and 32-bit arms (R310, R313, R314, R317, R318, R321, R322, R325): colour from the 16-bit unit at the swizzled
index, blue and alpha of RGBA 32 from the high half, luma from the high half and signed chroma from the low half of YUV. That
YUV 32 runs with the low-confidence effect of R314 is the model's choice (log entry 29). -/
def Obligations.FetchWideTexels : Prop :=
  ∀ (m : State) (n : BitVec 3) (s row : BitVec 13),
    let t := m.tile n
    let w : Nat := unitAt m (unitIndex 0x800 t s row)
    let low : Nat := unitAt m (unitIndex 0x400 t s row)
    let high : Nat := unitAt m (unitIndex 0x400 t s row + 0x400)
    let answers := fun (i : Instr) (P : Color 9 → Prop) => ∃ c, exec i m = .next { m with ret := .texel c } ∧ P c
    answers (.tmemFetchRgba16 n s row) (fun c => IsRgba16 c w) ∧
    answers (.tmemFetchRgba32 n s row) (fun c => IsTexel c (low / 256) (low % 256) (high / 256) (high % 256)) ∧
    answers (.tmemFetchIa16 n s row) (fun c => IsTexel c (w / 256) (w / 256) (w / 256) (w % 256)) ∧
    (∀ i, i = .tmemFetchCi16 n s row ∨ i = .tmemFetchI16 n s row → answers i (fun c => IsPair c w)) ∧
    (∀ i, i = .tmemFetchCi32 n s row ∨ i = .tmemFetchIa32 n s row ∨ i = .tmemFetchI32 n s row →
      answers i (fun c => IsPair c low)) ∧
    (let y : Int := (m.tmemByte (rowSwap row 4 ((8 * rowBase t row + s.toInt) % 0x800).toNat + 0x800)).toNat
     let chroma : Int := unitAt m (chromaIndex t s row)
     ∀ i, i = .tmemFetchYuv16 n s row ∨ i = .tmemFetchYuv32 n s row →
       answers i (fun c => IsTexel c (chroma / 256 - 128) (chroma % 256 - 128) y y))

/-- `TMEM_FETCH_1` is the arm of the tile's `notlutswitch` (R146, R302, R306). `TMEM_FETCH_QUAD` (R304) without TLUT is "four
independent single fetches", whose neighbours are not masked again, with TLUT the lookup-table fetch. -/
def Obligations.FetchDispatchAndQuad : Prop :=
  (∀ (m : State) (n : BitVec 3) (s row : BitVec 13),
     (∀ i, selectTmemFetch (m.tile n).notlutswitch n s row = some i →
       exec (.tmemFetch1 n s row) m = exec i m) ∧
     ((m.tile n).notlutswitch.toNat < 20 → (selectTmemFetch (m.tile n).notlutswitch n s row).isSome = true ∧
       ∃ c, exec (.tmemFetch1 n s row) m = .next { m with ret := .texel c }) ∧
     (20 ≤ (m.tile n).notlutswitch.toNat → selectTmemFetch (m.tile n).notlutswitch n s row = none)) ∧
  (∀ (m : State) (n : BitVec 3) (s row : BitVec 13) (sd td : BitVec 11) (upper : Bool),
     (Om.enTlut m.gs.om = false → (m.tile n).notlutswitch.toNat < 20 → ∃ q s' row',
       s'.toInt = (s.toInt + sd.toInt).bmod 0x2000 ∧ row'.toInt = (row.toInt + td.toInt).bmod 0x2000 ∧
       exec (.tmemFetchQuad n s sd row td upper) m = .next { m with ret := .quad q } ∧
       exec (.tmemFetch1 n s row) m = .next { m with ret := .texel q.q0 } ∧
       exec (.tmemFetch1 n s' row) m = .next { m with ret := .texel q.q1 } ∧
       exec (.tmemFetch1 n s row') m = .next { m with ret := .texel q.q2 } ∧
       exec (.tmemFetch1 n s' row') m = .next { m with ret := .texel q.q3 }) ∧
     (Om.enTlut m.gs.om = true →
       exec (.tmemFetchQuad n s sd row td upper) m = exec (.tmemFetchTlut n s sd row td upper) m))

/-- `TMEM_FETCH_TLUT` (R330, R332, R334): bilinear, each tap's own index and the bank by the triangle; nearest, one index and
the four banks; the entry read as RGBA 5-5-5-1 or as intensity and alpha. That a 16-bit index is read in the low half (log entry
16), and that tap `k` of a nearest fetch is bank `k` (log entry 17), is the model's choice. -/
def Obligations.FetchThroughLookupTable : Prop :=
  ∀ (m : State) (n : BitVec 3) (s row : BitVec 13) (sd td : BitVec 11) (upper : Bool), (m.tile n).format.toNat < 5 →
    (m.tile n).recompute = m.tile n →
    ∃ q, exec (.tmemFetchTlut n s sd row td upper) m = .next { m with ret := .quad q } ∧
    (let reads := fun (c : Color 9) (e k : Nat) =>
       let v := tableEntry m e k
       if Om.tlutType m.gs.om then IsTexel c (v / 256) (v / 256) (v / 256) (v % 256) else IsRgba16 c v
     let index := fun (ds dt : BitVec 11) => tableIndex m (m.tile n) (s + ds.signExtend 13) (row + dt.signExtend 13)
     let bank := fun (k : Nat) => if upper then 3 - k else k
     if Om.sampleType m.gs.om then
       reads q.q0 (index 0 0) (bank 0) ∧ reads q.q1 (index sd 0) (bank 1) ∧ reads q.q2 (index 0 td) (bank 2) ∧
       reads q.q3 (index sd td) (bank 3)
     else
       reads q.q0 (index 0 0) 0 ∧ reads q.q1 (index 0 0) 1 ∧ reads q.q2 (index 0 0) 2 ∧ reads q.q3 (index 0 0) 3)

/-- `COPY_TEXEL16` (R340): shift, tile-relative, no clamp, mask; texel `p` of the group, from the tile or through the table. That the
index of a 16-bit tile is read in the low half of TMEM is the model's choice (log entry 16). -/
def Obligations.CopyTexel : Prop :=
  ∀ (m : State) (n : BitVec 3) (sss sst : BitVec 16) (p : BitVec 2), (m.tile n).format.toNat < 5 →
    (m.tile n).recompute = m.tile n → Om.enTlut m.gs.om = true ∨ (m.tile n).size = 2 →
    ∃ (c : BitVec 16) (i j : BitVec 12), exec (.copyTexel16 n sss sst p) m = .next { m with ret := .texel16 c } ∧
    (let t := m.tile n
     let s1 := (tileRelative (tcShift sss t.shiftS t.sh).1 t.sl).toInt / 32 + p.toNat
     let t1 := (tileRelative (tcShift sst t.shiftT t.th).1 t.tl).toInt / 32
     i.toInt = s1.bmod 0x1000 ∧ j.toInt = t1.bmod 0x1000 ∧
     (let u := (tcMask i t.maskS t.ms t.masksclamped).signExtend 13
      let v := (tcMask j t.maskT t.mt t.masktclamped).signExtend 13
      c.toNat = if Om.enTlut m.gs.om then tableEntry m (tableIndex m t u v) p.toNat else unitAt m (unitIndex 0x800 t u v)))

/-! ### Combiner -/

/-- `COMBINE_EQ_RGB` and `COMBINE_EQ_ALPHA` (R351, R353, R356, R357): `(A - B) * C + D`, 17 bits for a colour channel, 9 bits
after the 8-bit shift for alpha, with the shortcut when C is the zero constant. -/
def Obligations.CombinerEquations : Prop :=
  ∀ (m : State) (a b c d : BitVec 9) (cZero : Bool), ∃ (v : BitVec 17) (w : BitVec 9),
    exec (.combineEqRgb a b c d cZero) m = .next { m with ret := .eqRgb v } ∧
    exec (.combineEqAlpha a b c d cZero) m = .next { m with ret := .eqAlpha w } ∧
    (let k : Int := if cZero then 0 else c.toInt
     let sum := (extended9 a - extended9 b) * k + 256 * extended9 d + 128
     (v.toNat : Int) = sum % 0x20000 ∧ (w.toNat : Int) = sum / 256 % 512)

/-- `COMBINE_1CYCLE` (R360): once, with the cycle-1 selectors, then `FINISH_CYCLE` with the A input as the bypass colour.
`COMBINE_2CYCLE` (R362): the cycle-0 equations, the alpha for the alpha compare, the colour shifted to 9 bits with its alpha
kept raw, the texel registers moved down, and the cycle-1 combiner on what they now hold. That `gs.seq.cycle` is set to 1 before
the second half is the model's choice (log entry 23). -/
def Obligations.CombinerCycles : Prop :=
  (∀ (m : State) (adith : BitVec 3) (cvg : BitVec 4),
     let x := combinerSources1 m.gs.cc
     ∃ c : CombinedColor,
       (let ch := fun (f : Rgb 9 → BitVec 9) => combineEqRgb (f (x.aRgb.rgb m)) (f (x.bRgb.rgb m)) (f (x.cRgb.rgb m))
          (f (x.dRgb.rgb m)) (decide (x.cRgb = .zero))
        c = ⟨ch Rgb.r, ch Rgb.g, ch Rgb.b,
          combineEqAlpha (x.aA.alpha m) (x.bA.alpha m) (x.cA.alpha m) (x.dA.alpha m) (decide (x.cA = .zero))⟩) ∧
       exec (.combine1cycle adith cvg) m = exec (.finishCycle adith cvg (x.aRgb.rgb m)) { m with gs.col.combined := c } ∧
       ∃ t, exec (.combine1cycle adith cvg) m = .next t) ∧
  (∀ (m : State) (adith : BitVec 3) (cvg : BitVec 4), ∃ (c : CombinedColor) (t u : State) (ac : BitVec 9) (cvg' : BitVec 4),
     exec (.combine1cycle adith cvg) { m with
       gs.col.combined := { c with r := c.r >>> 8, g := c.g >>> 8, b := c.b >>> 8 }
       gs.col.texel0 := m.gs.col.texel1, gs.col.texel1 := m.gs.col.nexttexel, gs.seq.cycle := 1 } = .next u ∧
     u.ret = .cvg cvg' ∧ exec (.combine2cycle adith cvg) m = .next t ∧ t = { u with ret := .combine2 ac cvg' } ∧
     (let x := combinerSources0 m.gs.cc
      let ch := fun (f : Rgb 9 → BitVec 9) => combineEqRgb (f (x.aRgb.rgb m)) (f (x.bRgb.rgb m)) (f (x.cRgb.rgb m))
        (f (x.dRgb.rgb m)) (decide (x.cRgb = .zero))
      c = ⟨ch Rgb.r, ch Rgb.g, ch Rgb.b,
        combineEqAlpha (x.aA.alpha m) (x.bA.alpha m) (x.cA.alpha m) (x.dA.alpha m) (decide (x.cA = .zero))⟩) ∧
     (Om.alphaCompareEn m.gs.om = false → ac = 0) ∧
     (Om.alphaCompareEn m.gs.om = true → Om.alphaCvgSelect m.gs.om = false → Om.keyEn m.gs.om = false →
       (ac.toNat : Int) = min 255 (clamped9 c.a.toNat + adith.toNat)) ∧
     (Om.alphaCompareEn m.gs.om = true → Om.alphaCvgSelect m.gs.om = true → Om.cvgTimesAlpha m.gs.om = false →
       ac.toNat = min 255 (32 * cvg.toNat)) ∧
     (Om.alphaCompareEn m.gs.om = true → Om.alphaCvgSelect m.gs.om = true → Om.cvgTimesAlpha m.gs.om = true →
       (let a := if clamped9 c.a.toNat = 255 then 256 else clamped9 c.a.toNat
        (ac.toNat : Int) = min 255 ((a * cvg.toNat + 4) / 8))) ∧
     (Om.alphaCompareEn m.gs.om = true → Om.alphaCvgSelect m.gs.om = false → Om.keyEn m.gs.om = true →
       ∃ k, exec (.chromaKey ⟨c.r, c.g, c.b⟩) m = .next { m with ret := .key k } ∧ ac = k.setWidth 9))

/-- `FINISH_CYCLE` (R364): clamp, the 0xFF quirk, chroma key, coverage times alpha, alpha dither of the pixel and the shade.
`CHROMA_KEY` (R366): the smallest of the three key distances, clamped to 0..0xFF. -/
def Obligations.FinishCycleAndChromaKey : Prop :=
  (∀ (m : State) (adith : BitVec 3) (cvg : BitVec 4) (bypass : Rgb 9), ∃ (px : PixelColor) (sa : BitVec 8) (cvg' : BitVec 4),
     let c := m.gs.col.combined
     exec (.finishCycle adith cvg bypass) m = .next { m with
       gs.col.combined := { c with r := c.r >>> 8, g := c.g >>> 8, b := c.b >>> 8 }
       gs.col.pixel := px, gs.col.shade.a := sa, ret := .cvg cvg' } ∧
     (let om := m.gs.om
      let a := if clamped9 c.a.toNat = 255 then 256 else clamped9 c.a.toNat
      let temp := (a * cvg.toNat + 4) / 8
      sa.toNat = min 255 (m.gs.col.shade.a.toNat + adith.toNat) ∧
      ((cvg'.toNat : Int) = if Om.cvgTimesAlpha om then temp / 32 % 16 else cvg.toNat) ∧
      (Om.keyEn om = false → (px.r.toNat : Int) = clamped9 (c.r.toNat / 256) ∧
        (px.g.toNat : Int) = clamped9 (c.g.toNat / 256) ∧ (px.b.toNat : Int) = clamped9 (c.b.toNat / 256)) ∧
      (Om.keyEn om = true → (px.r.toNat : Int) = clamped9 bypass.r.toNat ∧
        (px.g.toNat : Int) = clamped9 bypass.g.toNat ∧ (px.b.toNat : Int) = clamped9 bypass.b.toNat) ∧
      (Om.alphaCvgSelect om = false → Om.keyEn om = false →
        (px.a.toNat : Int) = min 255 (clamped9 c.a.toNat + adith.toNat)) ∧
      (Om.alphaCvgSelect om = false → Om.keyEn om = true →
        ∃ k, exec (.chromaKey ⟨c.r, c.g, c.b⟩) m = .next { m with ret := .key k } ∧ px.a = k.setWidth 9) ∧
      (Om.alphaCvgSelect om = true →
        (px.a.toNat : Int) = min 255 (if Om.cvgTimesAlpha om then temp else 32 * cvg.toNat)))) ∧
  (∀ (m : State) (col : Rgb 17), ∃ k : BitVec 8,
     exec (.chromaKey col) m = .next { m with ret := .key k } ∧
     (let w := m.gs.col.keyWidth
      let d := fun (v : BitVec 17) => if 0 < v.toInt then (if v.toInt % 16 = 8 then 16 - v.toInt else -v.toInt) else v.toInt
      (k.toNat : Int) = max 0 (min 255 (min (16 * w.r.toNat + d col.r)
        (min (16 * w.g.toNat + d col.g) (16 * w.b.toNat + d col.b))))))

/-! ### Blender -/

/-- `bldiv` (R400): "for every `d` in 1..8 and every `n` with `floor(n / d) <= 255`", the entry is the quotient. -/
def Obligations.BlendDivisionIsExact : Prop :=
  ∀ d n : Nat, 1 ≤ d → d ≤ 8 → n < 2048 → n / d ≤ 255 → (bldiv (BitVec.ofNat 15 (d * 2048 + n))).toNat = n / d

/-- `BLEND_EQ` and `BLEND_EQ_C0_2` (R392, R396, R398): the factors, the weighted sum, and its division: by 32 with `force_blend`
and in `BLEND_EQ_C0_2`, through the table `bldiv` else. -/
def Obligations.BlendEquations : Prop :=
  ∀ (m : State) (second : Bool), ∃ x y : Rgb 8,
    exec (.blendEq second) m = .next { m with ret := .rgb x } ∧ exec .blendEqC02 m = .next { m with ret := .rgb y } ∧
    (let factors := fun (c : Bool) (sa sb : BitVec 3) =>
       let b1 := (blend1b m c).toNat / 8
       let b2 := (blend2b m c).toNat / 8
       if (blendCodes m.gs.om c).m2b = 1 then (b1 / 2 ^ sa.toNat / 4 % 16 * 4, b2 / 2 ^ sb.toNat / 4 * 4 + 3) else (b1, b2)
     let f := factors second m.gs.hid.blshifta m.gs.hid.blshiftb
     let g := factors false m.gs.hid.pastblshifta m.gs.hid.pastblshiftb
     let sum := fun (c : Bool) (b : Nat × Nat) (ch : Rgb 9 → BitVec 9) =>
       (ch (blend1a m c)).toNat * b.1 + (ch (blend2a m c)).toNat * (b.2 + 1)
     let div := f.1 / 4 + f.2 / 4 + 1
     let eq := fun (ch : Rgb 9 → BitVec 9) (out : BitVec 8) =>
       let bl := sum second f ch
       (Om.forceBlend m.gs.om = true → out.toNat = bl / 32 % 256) ∧
       (Om.forceBlend m.gs.om = false → div ≤ 8 → bl / 4 % 2048 / div ≤ 255 → out.toNat = bl / 4 % 2048 / div) ∧
       (Om.forceBlend m.gs.om = false → div ≤ 15 → out = bldiv (BitVec.ofNat 15 (div * 2048 + bl / 4 % 2048)))
     eq Rgb.r x.r ∧ eq Rgb.g x.g ∧ eq Rgb.b x.b ∧
     y.r.toNat = sum false g Rgb.r / 32 % 256 ∧ y.g.toNat = sum false g Rgb.g / 32 % 256 ∧
     y.b.toNat = sum false g Rgb.b / 32 % 256)

/-- `ALPHA_COMPARE` (R402): always passes when off, else compares with the blend alpha, or with eight bits of `IRAND` when the
threshold is dithered; only then does the generator advance. -/
def Obligations.AlphaCompareThreshold : Prop :=
  ∀ (m : State) (alpha : BitVec 9), ∃ (t : State) (pass : Bool), exec (.alphaCompare alpha) m = .next t ∧
    t = { m with gs.hid.iseed := t.gs.hid.iseed, ret := .bool pass } ∧
    (Om.alphaCompareEn m.gs.om = false → pass = true ∧ t.gs.hid.iseed = m.gs.hid.iseed) ∧
    (Om.alphaCompareEn m.gs.om = true → Om.ditherAlphaEn m.gs.om = false →
      (pass = true ↔ m.gs.col.blend.a.toNat ≤ alpha.toNat) ∧ t.gs.hid.iseed = m.gs.hid.iseed) ∧
    (Om.alphaCompareEn m.gs.om = true → Om.ditherAlphaEn m.gs.om = true →
      ∃ v, exec .irand m = .next { m with gs.hid.iseed := t.gs.hid.iseed, ret := .random v } ∧
        (pass = true ↔ v.toNat % 256 ≤ alpha.toNat))

/-- `BLEND_1CYCLE` (R404): alpha compare, coverage gating, then input 1A, the blend, or input 2A, and the RGB dither. -/
def Obligations.BlendOneCyclePass : Prop :=
  ∀ (m a t : State) (o : BlendOperands) (pass w : Bool) (rgb : Rgb 8),
    exec (.alphaCompare m.gs.col.pixel.a) m = .next { a with ret := .bool pass } → a.ret = m.ret →
    exec (.blend1cycle o) m = .next t → t.ret = .blended w rgb →
    (let gate := if Om.antialiasEn m.gs.om then decide (o.cvg ≠ 0) else o.cvbit
     let bypass := !o.blendEn || (m.gs.der.partialreject1cycle && decide (255 ≤ m.gs.col.pixel.a.toNat))
     let low := fun (c : Rgb 9) => (⟨c.r.setWidth 8, c.g.setWidth 8, c.b.setWidth 8⟩ : Rgb 8)
     let blended := Om.colorOnCvg m.gs.om = false ∨ o.prewrap = true
     let inv := { a with gs.col.invPixelA := ~~~((blend1b a false).setWidth 8) }
     (w = (pass && gate)) ∧
     (w = false → t = { a with ret := t.ret }) ∧
     (w = true → (blended ∧ bypass = false → t = { inv with ret := t.ret }) ∧
       (¬ (blended ∧ bypass = false) → t = { a with ret := t.ret }) ∧
       ∃ c : Rgb 8,
         (blended → bypass = true → c = low (blend1a a false)) ∧
         (blended → bypass = false → exec (.blendEq false) inv = .next { inv with ret := .rgb c }) ∧
         (¬ blended → c = low (blend2a a false)) ∧
         (Om.rgbDitherSel m.gs.om = 3 → rgb = c) ∧
         (Om.rgbDitherSel m.gs.om ≠ 3 → exec (.rgbDither c.r c.g c.b o.cdith) a = .next { a with ret := .rgb rgb })))

/-- `BLEND_1CYCLE` and `BLEND_2CYCLE` complete on every input and change only the generator, the inverse alpha and, in 2-cycle
mode, the memory colour, the blended pixel and the sequencer's cycle (R404, R406); after `BLEND_2CYCLE` "`gs.memory` holds the
framebuffer colour read at that pixel" on every path. Its pixel is to be written just when alpha compare and coverage let it
through; one that is not leaves only the generator and the memory colour changed. One that is: the first blend with the past
shifters on the previous pixel's memory colour, then this pixel's memory colour and the cycle-1 inputs. That `gs.seq.cycle` is
set to 1 before the second blend is the model's choice (log entry 23). -/
def Obligations.BlendTwoCyclePass : Prop :=
  (∀ (m : State) (o : BlendOperands) (acalpha : BitVec 9), ∃ (t u : State) (w x : Bool) (c d : Rgb 8),
     exec (.blend1cycle o) m = .next t ∧
     t = { m with gs.hid.iseed := t.gs.hid.iseed, gs.col.invPixelA := t.gs.col.invPixelA, ret := .blended w c } ∧
     exec (.blend2cycle o acalpha) m = .next u ∧
     u = { m with
       gs.hid.iseed := u.gs.hid.iseed, gs.col.invPixelA := u.gs.col.invPixelA, gs.col.memory := m.gs.col.preMemory
       gs.col.blendedPixel := u.gs.col.blendedPixel, gs.seq.cycle := u.gs.seq.cycle, ret := .blended x d } ∧
     ∃ (a : State) (pass : Bool), exec (.alphaCompare acalpha) m = .next { a with ret := .bool pass } ∧
       x = (pass && if Om.antialiasEn m.gs.om then decide (o.cvg ≠ 0) else o.cvbit) ∧
       (x = false → u = { a with gs.col.memory := m.gs.col.preMemory, ret := .blended x d })) ∧
  (∀ (m a t : State) (o : BlendOperands) (acalpha : BitVec 9) (first d : Rgb 8),
     exec (.alphaCompare acalpha) m = .next { a with ret := .bool true } → a.ret = m.ret →
     (if Om.antialiasEn m.gs.om then o.cvg ≠ 0 else o.cvbit = true) →
     exec (.blend2cycle o acalpha) m = .next t → t.ret = .blended true d →
     let inv0 := { a with gs.col.invPixelA := ~~~((blend1b a false).setWidth 8) }
     exec .blendEqC02 inv0 = .next { inv0 with ret := .rgb first } →
     (let mid := { inv0 with
        gs.col.memory := m.gs.col.preMemory
        gs.col.blendedPixel := ⟨first.r, first.g, first.b, m.gs.col.pixel.a⟩, gs.seq.cycle := 1 }
      let bypass := !o.blendEn || (m.gs.der.partialreject2cycle && decide (255 ≤ m.gs.col.pixel.a.toNat))
      let low := fun (c : Rgb 9) => (⟨c.r.setWidth 8, c.g.setWidth 8, c.b.setWidth 8⟩ : Rgb 8)
      let blended := Om.colorOnCvg m.gs.om = false ∨ o.prewrap = true
      let inv1 := { mid with gs.col.invPixelA := ~~~((blend1b mid true).setWidth 8) }
      (blended ∧ bypass = false → t = { inv1 with ret := t.ret }) ∧
      (¬ (blended ∧ bypass = false) → t = { mid with ret := t.ret }) ∧
      ∃ c : Rgb 8,
        (blended → bypass = true → c = low (blend1a mid true)) ∧
        (blended → bypass = false → exec (.blendEq true) inv1 = .next { inv1 with ret := .rgb c }) ∧
        (¬ blended → c = low (blend2a mid true)) ∧
        (Om.rgbDitherSel m.gs.om = 3 → d = c) ∧
        (Om.rgbDitherSel m.gs.om ≠ 3 → exec (.rgbDither c.r c.g c.b o.cdith) a = .next { a with ret := .rgb d })))

/-! ### Z buffer -/

/-- The round trip of the depth tables (R421, R422, R427): truncated to a multiple of `2^(6-e)` for exponent `e`, never rounded
up, exact from 0x3F000. -/
def Obligations.DepthRoundTrip : Prop :=
  ∀ z : BitVec 18,
    let e := (zCompress z).toNat / 8192
    (zCompress z).toNat % 4 = 0 ∧ (zDecompress (zCompress z)).toNat = z.toNat / 2 ^ (6 - e) * 2 ^ (6 - e) ∧
    (0x3F000 ≤ z.toNat → zDecompress (zCompress z) = z) ∧ (z.toNat < 0x20000 → e = 0)

/-- `Z_STORE` and `Z_LOAD` (R423, R440): the compressed depth and the delta-Z code in the Z word and its hidden bits, nothing
else written; loading the word gives both back. -/
def Obligations.DepthStoreAndLoad : Prop :=
  ∀ (m : State) (z : Word) (sz : BitVec 18) (dz : BitVec 4), ∃ (t : State) (w : BitVec 16) (h : BitVec 2),
    exec (.zStore z sz dz) m = .next t ∧ t = { m with ram := t.ram, hidden := t.hidden } ∧
    (let u := z.toNat % (m.ramBytes / 2)
     SameRamOutside (fun a => a / 2 = u) (fun v => v = u) m t) ∧
    w.toNat = (zCompress sz).toNat + dz.toNat / 4 ∧ h.toNat = dz.toNat % 4 ∧
    exec (.zLoad z) t = .next { t with ret := .zword w h } ∧
    exec (.zLoad z) m = .next { m with ret := .zword (m.pairRd16 z).1 (m.pairRd16 z).2 }

/-- `SHIFTERS` (R434): differences of delta-Z codes clamped to 0..4, each pair only when its derived flag asks for it. -/
def Obligations.ShiftersClampDifferences : Prop :=
  ∀ (m : State) (dz raw : BitVec 4), ∃ h : HiddenRegs,
    exec (.shifters dz raw) m = .next { m with gs.hid := h } ∧
    (let old := m.gs.hid
     let diff := fun (a b : BitVec 4) => (max 0 (min 4 ((a.toNat : Int) - b.toNat)))
     h.iseed = old.iseed ∧ h.pastrawdzmem = raw ∧
     (m.gs.der.realShiftersNeeded = true → (h.blshifta.toNat : Int) = diff dz raw ∧ (h.blshiftb.toNat : Int) = diff raw dz) ∧
     (m.gs.der.realShiftersNeeded = false → h.blshifta = old.blshifta ∧ h.blshiftb = old.blshiftb) ∧
     (m.gs.der.interpixelShiftersNeeded = true → (h.pastblshifta.toNat : Int) = diff dz old.pastrawdzmem ∧
       (h.pastblshiftb.toNat : Int) = diff old.pastrawdzmem dz) ∧
     (m.gs.der.interpixelShiftersNeeded = false → h.pastblshifta = old.pastblshifta ∧ h.pastblshiftb = old.pastblshiftb))

/-- The four mode arms of `ZCOMPARE` (R436 to R439). -/
def Obligations.DepthModeArms : Prop :=
  ∀ (m : State) (x : ZTerms) (oz sz : BitVec 18) (dz : BitVec 16) (cvg : BitVec 4), ∃ (o t d p : Bool) (c : BitVec 4),
    exec (.zcompareOpaque x) m = .next { m with ret := .bool o } ∧
    exec (.zcompareTransparent x) m = .next { m with ret := .bool t } ∧
    exec (.zcompareDecal x) m = .next { m with ret := .bool d } ∧
    exec (.zcompareInterpenetrating x oz sz dz cvg) m = .next { m with ret := .zpass p c } ∧
    (o = true ↔ x.max = true ∨ (x.overflow = true ∧ x.infront = true) ∨ (x.overflow = false ∧ x.nearer = true)) ∧
    (t = true ↔ x.infront = true ∨ x.max = true) ∧
    (d = true ↔ x.farther = true ∧ x.nearer = true ∧ x.max = false) ∧
    (¬ (x.infront = true ∧ x.farther = true ∧ x.overflow = true) → p = o ∧ c = cvg) ∧
    (x.infront = true → x.farther = true → x.overflow = true → p = true ∧
      (let k := (dzCompress dz).toNat
       (c.toNat : Int) = ((oz.toNat / 2 ^ k : Int) - sz.toNat / 2 ^ k) % 16 * cvg.toNat / 8 % 16))

/-- `ZCOMPARE` (R430, R432): disabled, it passes without a memory access; enabled, it compares with the stored depth under the
tolerance of both slopes, by the arm of `gs.om.z_mode`. Both set `blend_en` and `prewrap` and run `SHIFTERS`.
`ZCOMPARE_DISABLED` always passes. -/
def Obligations.DepthCompare : Prop :=
  (∀ (m : State) (o : ZOperands), ∃ (h : HiddenRegs) (pass : Bool) (cvg : BitVec 4) (be pw : Bool),
     exec (.zcompare o) m = .next { m with
       gs.hid := h, gs.flags.blendEn := be, gs.flags.prewrap := pw, ret := .zpass pass cvg } ∧
     (let overflow := (o.memcvg.toNat + o.cvg.toNat) / 8 % 2 = 1
      let force := Om.forceBlend m.gs.om = true
      let aa := Om.antialiasEn m.gs.om = true
      (pw = true ↔ overflow) ∧
      (Om.zCompareEn m.gs.om = false → exec (.zcompare o) m = exec (.zcompareDisabled o) m ∧
        exec (.shifters o.dzpixenc 15) m = .next { m with gs.hid := h } ∧ pass = true ∧ cvg = o.cvg ∧
        (be = true ↔ force ∨ (¬ overflow ∧ aa))) ∧
      (Om.zCompareEn m.gs.om = true →
        (let w := (m.pairRd16 o.zbcur).1.toNat
         let raw := 4 * (w % 4) + (m.pairRd16 o.zbcur).2.toNat
         let e := w / 8192
         let coplanar := e < 3 ∧ raw = 15
         let mem := if e < 3 then (if raw = 15 then 0xFFFF else max (2 * 2 ^ raw) (2 ^ (4 - e))) else 2 ^ raw
         ∃ (oz : BitVec 18) (dn : Nat) (x : ZTerms) (r : BitVec 4),
           oz = zDecompress (m.pairRd16 o.zbcur).1 ∧ r.toNat = raw ∧
           exec (.shifters o.dzpixenc r) m = .next { m with gs.hid := h } ∧
           (∃ k, dn = 2 ^ k ∧ dn ≤ o.dzpix.toNat ||| mem ∧ o.dzpix.toNat ||| mem < 2 * dn) ∧
           (x.infront = true ↔ o.sz.toNat < oz.toNat) ∧
           (x.farther = true ↔ coplanar ∨ oz.toNat ≤ o.sz.toNat + 8 * dn) ∧
           (x.nearer = true ↔ coplanar ∨ o.sz.toNat ≤ oz.toNat + 8 * dn) ∧
           (x.max = true ↔ oz.toNat = 0x3FFFF) ∧ (x.overflow = true ↔ overflow) ∧
           (be = true ↔ force ∨ (¬ overflow ∧ aa ∧ x.farther = true)) ∧
           (match selectZMode (Om.zMode m.gs.om) x oz o.sz (BitVec.ofNat 16 dn) o.cvg with
            | .zcompareInterpenetrating x oz sz dz c =>
              exec (.zcompareInterpenetrating x oz sz dz c) m = .next { m with ret := .zpass pass cvg }
            | i => exec i m = .next { m with ret := .bool pass } ∧ cvg = o.cvg))))) ∧
  (∀ (m : State) (o : ZOperands), ∃ (h : HiddenRegs) (be pw : Bool),
     exec (.zcompareDisabled o) m = .next { m with
       gs.hid := h, gs.flags.blendEn := be, gs.flags.prewrap := pw, ret := .zpass true o.cvg } ∧
     exec (.shifters o.dzpixenc 15) m = .next { m with gs.hid := h } ∧
     (pw = true ↔ 8 ≤ (o.memcvg.toNat + o.cvg.toNat) % 16) ∧
     (be = true ↔ Om.forceBlend m.gs.om = true ∨ (pw = false ∧ Om.antialiasEn m.gs.om = true)))

/-! ### Coverage and dither -/

/-- `CVG_BUILD` (R452, R453, R454): every pixel of the span gets the mask of its four sub-scanlines, from the left and right
crossings that `flip` assigns; entries outside the span change only where a crossing lies; a negative span writes nothing. -/
def Obligations.CoverageOfASpan : Prop :=
  ∀ (m : State) (i : BitVec 10) (flip : Bool), ∃ t, exec (.cvgBuild i flip) m = .next t ∧
    t = { m with gs.cvgbuf := t.gs.cvgbuf } ∧
    (let sp := m.spanAt i.toNat
     let lo := if flip then sp.rx.toNat else sp.lx.toNat
     let hi := if flip then sp.lx.toNat else sp.rx.toNat
     let left := fun (k : Fin 4) => if flip then sp.majorx[k].toNat else sp.minorx[k].toNat
     let right := fun (k : Fin 4) => if flip then sp.minorx[k].toNat else sp.majorx[k].toNat
     let mask := fun (k : Fin 4) (p : Nat) => subMask k.val sp.invalyscan[k] (left k) (right k) p
     (hi < lo → t = m) ∧
     (∀ p, lo ≤ p → p ≤ hi → p < 1024 →
       (t.cvgAt p).toNat = mask 0 p ||| mask 1 p ||| mask 2 p ||| mask 3 p) ∧
     (∀ p, p < lo ∨ hi < p → (∀ k, p ≠ left k / 8 ∧ p ≠ right k / 8) → t.cvgAt p = m.cvgAt p))

/-- `CVG_LOOKUP` (R452, R460, R462): the population count, the coverage bit, and the first covered sample in raster order; "Pure: no
state written" but the latch of what an operation returns, which is the model's own (log entry 11). -/
def Obligations.CoverageLookup : Prop :=
  ∀ (m : State) (mask : Byte), ∃ (ox oy : BitVec 2) (n : BitVec 4) (b : Bool),
    exec (.cvgLookup mask) m = .next { m with ret := .lookup ox oy n b } ∧
    n.toNat = (List.range 8).countP (fun k => mask.getLsbD k) ∧ b = mask.getLsbD 7 ∧
    (let sample := fun (y x : Nat) => mask.getLsbD ((if y < 2 then 7 else 3) - x) && decide (x % 2 = y % 2)
     (mask = 0 → ox = 0 ∧ oy = 0) ∧
     (mask ≠ 0 → sample oy.toNat ox.toNat = true ∧
       ∀ y x, y < 4 → x < 4 → 4 * y + x < 4 * oy.toNat + ox.toNat → sample y x = false))

/-- `IRAND` (R470): the linear-congruential step and the 15 bits it delivers. `DITHER_NOISE` (R471, R472, R474): untouched at
level 2; at level 0 new noise first; then the sixteen modes over the two matrices, the noise and the generator. `RGB_DITHER`
(R476): up to the next multiple of 8, at most 255, when the low three bits exceed the dither value. -/
def Obligations.DitherUnit : Prop :=
  (∀ m : State, ∃ (v : BitVec 15) (x : BitVec 32),
     exec .irand m = .next { m with gs.hid.iseed := x, ret := .random v } ∧
     x.toNat = (m.gs.hid.iseed.toNat * 0x343FD + 0x269EC3) % 2 ^ 32 ∧ v.toNat = x.toNat / 0x10000 % 0x8000) ∧
  (∀ (m : State) (x y : BitVec 12) (cd : BitVec 15) (ad : BitVec 3), ∃ (t : State) (c : BitVec 15) (a : BitVec 3),
     exec (.ditherNoise x y cd ad) m = .next t ∧
     t = { m with gs.hid.iseed := t.gs.hid.iseed, gs.sca.noise := t.gs.sca.noise, ret := .dither c a } ∧
     (m.gs.der.ditherLevel = 2 → c = cd ∧ a = ad ∧ t.gs.hid.iseed = m.gs.hid.iseed ∧ t.gs.sca.noise = m.gs.sca.noise) ∧
     (m.gs.der.ditherLevel ≠ 2 →
       (let magic := [0, 6, 1, 7, 4, 2, 5, 3, 3, 5, 2, 4, 7, 1, 6, 0]
        let bayer := [0, 4, 1, 5, 4, 0, 5, 1, 3, 7, 2, 6, 7, 3, 6, 2]
        let row := if m.gs.clip.scfield then y.toNat / 2 else y.toNat
        let d := 4 * (row % 4) + x.toNat % 4
        let mode := m.gs.der.rgbAlphaDither.toNat
        let pattern := (if mode / 4 = 0 ∨ mode / 4 = 2 then magic else bayer).getD d 0
        let next := fun (v : BitVec 32) => BitVec.ofNat 32 (v.toNat * 0x343FD + 0x269EC3)
        let noise := if m.gs.der.ditherLevel = 0 then (next m.gs.hid.iseed).toNat / 0x10000 % 8 * 64 + 32 else m.gs.sca.noise.toNat
        let s0 := if m.gs.der.ditherLevel = 0 then next m.gs.hid.iseed else m.gs.hid.iseed
        t.gs.sca.noise.toNat = noise ∧
        t.gs.hid.iseed = (if mode / 4 = 2 then next s0 else s0) ∧
        c.toNat = (if mode / 4 < 2 then pattern else if mode / 4 = 2 then (next s0).toNat / 0x10000 % 0x8000 else 7) ∧
        a.toNat = (if mode % 4 = 0 then pattern else if mode % 4 = 1 then 7 - pattern
          else if mode % 4 = 2 then noise / 64 else 0)))) ∧
  (∀ (m : State) (r g b : BitVec 8) (dith : BitVec 15), ∃ c : Rgb 8,
     exec (.rgbDither r g b dith) m = .next { m with ret := .rgb c } ∧
     (let one := Om.rgbDitherSel m.gs.om ≠ 2
      let up := fun (v : BitVec 8) (comp : Nat) => if comp < v.toNat % 8 then min 255 (v.toNat / 8 * 8 + 8) else v.toNat
      c.r.toNat = up r (if one then dith.toNat else dith.toNat % 8) ∧
      c.g.toNat = up g (if one then dith.toNat else dith.toNat / 8 % 8) ∧
      c.b.toNat = up b (if one then dith.toNat else dith.toNat / 64 % 8)))

/-! ### Framebuffer -/

/-- The framebuffer reads (R491 to R499): the memory colour in `gs.memory`, in 2-cycle mode in `gs.pre_memory`, and the stored
coverage, 7 unless `image_read_en` is set. -/
def Obligations.FramebufferReads : Prop :=
  ∀ (m : State) (p : Word) (pre : Bool), ∃ (c8 c16 c32 : Color 8) (v16 v32 : BitVec 3),
    let latch := fun (c : Color 8) (v : BitVec 3) =>
      if pre then { m with gs.col.preMemory := c, ret := .memcvg v } else { m with gs.col.memory := c, ret := .memcvg v }
    exec (.fbRead4 p pre) m = .next (latch ⟨0, 0, 0, 0xE0⟩ 7) ∧
    exec (.fbRead8 p pre) m = .next (latch c8 7) ∧
    exec (.fbRead16 p pre) m = .next (latch c16 v16) ∧
    exec (.fbRead32 p pre) m = .next (latch c32 v32) ∧
    (let fb := m.gs.img.fbAddress.toNat
     let image := Om.imageReadEn m.gs.om = true
     let byte := m.rd8 (BitVec.ofNat 32 (fb + p.toNat))
     let w := (m.rd16 (BitVec.ofNat 32 (fb / 2 + p.toNat))).toNat
     let h := (m.hidRd (BitVec.ofNat 32 (fb / 2 + p.toNat))).toNat
     let x := (m.rd32 (BitVec.ofNat 32 (fb / 4 + p.toNat))).toNat
     c8 = ⟨byte, byte, byte, 0xE0⟩ ∧
     (m.gs.img.fbFormat = 0 → c16.r.toNat = w / 2048 * 8 ∧ c16.g.toNat = w / 64 % 32 * 8 ∧ c16.b.toNat = w / 2 % 32 * 8) ∧
     (m.gs.img.fbFormat ≠ 0 → c16.r.toNat = w / 256 ∧ c16.g.toNat = w / 256 ∧ c16.b.toNat = w / 256) ∧
     v16.toNat = (if image then w % 2 * 4 + h else 7) ∧ c16.a.toNat = v16.toNat * 32 ∧
     c32.r.toNat = x / 0x1000000 ∧ c32.g.toNat = x / 0x10000 % 256 ∧ c32.b.toNat = x / 0x100 % 256 ∧
     v32.toNat = (if image then x / 32 % 8 else 7) ∧ c32.a.toNat = v32.toNat * 32)

/-- `FINAL_CVG` (R500): the coverage to store, by `gs.om.cvg_dest`. The framebuffer writes (R491, R502 to R508): what each pixel
size stores, its hidden bits, and that every byte and entry outside the pixel's own stays. -/
def Obligations.FramebufferWrites : Prop :=
  (∀ (m : State) (blendEn : Bool) (cvg : BitVec 4) (memcvg : BitVec 3), ∃ c : BitVec 3,
     exec (.finalCvg blendEn cvg memcvg) m = .next { m with ret := .memcvg c } ∧
     (let dest := (Om.cvgDest m.gs.om).toNat
      let t : Int := if blendEn then cvg.toNat + memcvg.toNat else cvg.toNat - 1
      (dest = 0 → (c.toNat : Int) = if t / 8 % 2 = 1 then 7 else t % 8) ∧
      (dest = 1 → c.toNat = (cvg.toNat + memcvg.toNat) % 8) ∧ (dest = 2 → c = 7) ∧ (dest = 3 → c = memcvg))) ∧
  (∀ (m : State) (o : FbOperands), ∃ (a b c d : State) (fc : BitVec 3),
     exec (.finalCvg o.blendEn o.cvg o.memcvg) m = .next { m with ret := .memcvg fc } ∧
     exec (.fbWrite4 o) m = .next a ∧ a = { m with ram := a.ram } ∧
     exec (.fbWrite8 o) m = .next b ∧ b = { m with ram := b.ram, hidden := b.hidden } ∧
     exec (.fbWrite16 o) m = .next c ∧ c = { m with ram := c.ram, hidden := c.hidden } ∧
     exec (.fbWrite32 o) m = .next d ∧ d = { m with ram := d.ram, hidden := d.hidden } ∧
     (let fb := m.gs.img.fbAddress.toNat
      let p8 := (fb + o.curpixel.toNat) % 2 ^ 32
      let p16 := (fb / 2 + o.curpixel.toNat) % 2 ^ 32
      let p32 := (fb / 4 + o.curpixel.toNat) % 2 ^ 32
      let u16 := p16 % (m.ramBytes / 2)
      let u32 := p32 % (m.ramBytes / 4)
      (a.ramByte (p8 % m.ramBytes) = 0 ∧ SameRamOutside (fun x => x = p8 % m.ramBytes) (fun _ => False) m a) ∧
      (b.ramByte (p8 % m.ramBytes) = o.r ∧
        (p8 % 2 = 1 → (b.hiddenAt (p8 / 2 % (m.ramBytes / 2))).toNat = o.r.toNat % 2 * 3) ∧
        SameRamOutside (fun x => x = p8 % m.ramBytes) (fun u => p8 % 2 = 1 ∧ u = p8 / 2 % (m.ramBytes / 2)) m b) ∧
      ((c.rd16 (BitVec.ofNat 32 p16)).toNat =
          (if m.gs.img.fbFormat = 0 then o.r.toNat / 8 * 2048 + o.g.toNat / 8 * 64 + o.b.toNat / 8 * 2 + fc.toNat / 4
           else o.r.toNat * 256 + fc.toNat * 32) ∧
        (c.hiddenAt u16).toNat = (if m.gs.img.fbFormat = 0 then fc.toNat % 4 else 0) ∧
        SameRamOutside (fun x => x / 2 = u16) (fun u => u = u16) m c) ∧
      ((d.rd32 (BitVec.ofNat 32 p32)).toNat = o.r.toNat * 0x1000000 + o.g.toNat * 0x10000 + o.b.toNat * 0x100 + fc.toNat * 32 ∧
        (d.hiddenAt (2 * u32)).toNat = o.g.toNat % 2 * 3 ∧ d.hiddenAt (2 * u32 + 1) = 0 ∧
        SameRamOutside (fun x => x / 4 = u32) (fun u => u / 2 = u32) m d)))

/-- The fill writes (R510): the fill colour packed to each pixel size, its hidden bits, and the frame. -/
def Obligations.FramebufferFills : Prop :=
  ∀ (m : State) (p : Word), ∃ b c d : State,
    exec (.fbFill8 p) m = .next b ∧ b = { m with ram := b.ram, hidden := b.hidden } ∧
    exec (.fbFill16 p) m = .next c ∧ c = { m with ram := c.ram, hidden := c.hidden } ∧
    exec (.fbFill32 p) m = .next d ∧ d = { m with ram := d.ram, hidden := d.hidden } ∧
    (let fb := m.gs.img.fbAddress.toNat
     let color := m.gs.misc.fillColor.toNat
     let red := color / 0x1000000
     let packed := color / 0x8000000 * 2048 + color / 0x80000 % 32 * 64 + color / 0x800 % 32 * 2 + color / 0x80 % 2
     let p8 := (fb + p.toNat) % 2 ^ 32
     let p16 := (fb / 2 + p.toNat) % 2 ^ 32
     let p32 := (fb / 4 + p.toNat) % 2 ^ 32
     let u16 := p16 % (m.ramBytes / 2)
     let u32 := p32 % (m.ramBytes / 4)
     ((b.ramByte (p8 % m.ramBytes)).toNat = red ∧
       (p8 % 2 = 1 → (b.hiddenAt (p8 / 2 % (m.ramBytes / 2))).toNat = red % 2 * 3) ∧
       SameRamOutside (fun x => x = p8 % m.ramBytes) (fun u => p8 % 2 = 1 ∧ u = p8 / 2 % (m.ramBytes / 2)) m b) ∧
     ((c.rd16 (BitVec.ofNat 32 p16)).toNat = packed ∧ (c.hiddenAt u16).toNat = packed % 2 * 3 ∧
       SameRamOutside (fun x => x / 2 = u16) (fun u => u = u16) m c) ∧
     ((d.rd32 (BitVec.ofNat 32 p32)).toNat = color ∧
       (d.hiddenAt (2 * u32)).toNat = color / 0x10000 % 2 * 3 ∧
       (d.hiddenAt (2 * u32 + 1)).toNat = color % 2 * 3 ∧
       SameRamOutside (fun x => x / 4 = u32) (fun u => u / 2 = u32) m d))
end

