-- ==== Sys2Proof/Laws/Decode.lean ====
section
/-! SUPPORT. The laws of the record reader: each field read back from the bytes it was written in. -/

namespace Sys2Proof

theorem takeNat_putNat (n v acc : Nat) (rest : List Byte) :
    takeNat n (putNat n v ++ rest) acc = (acc * 256 ^ n + v % 256 ^ n, rest) := by
  induction n generalizing acc with
  | zero => simp [takeNat, putNat, Nat.mod_one]
  | succ n ih =>
    simp only [putNat, List.cons_append, takeNat, ih, Prod.mk.injEq, and_true, BitVec.toNat_ofNat]
    have h1 : v % 256 ^ (n + 1) = 256 ^ n * (v / 256 ^ n % 256) + v % 256 ^ n := by
      rw [Nat.pow_succ, Nat.mod_mul]
      ring
    rw [h1, Nat.pow_succ]
    ring

/-- A field is read back from its bytes. -/
theorem takeField_putField {w : Nat} (v : BitVec w) (rest : List Byte) : takeField w (putField v ++ rest) = (v, rest) := by
  unfold takeField putField
  rw [takeNat_putNat]
  have hw : 2 ^ w ≤ 256 ^ fieldBytes w := by
    have : (256 : Nat) = 2 ^ 8 := rfl
    rw [this, ← Nat.pow_mul]
    exact Nat.pow_le_pow_right (by decide) (by unfold fieldBytes; omega)
  have hv := v.isLt
  simp [Nat.mod_eq_of_lt (Nat.lt_of_lt_of_le hv hw)]

/-- The last field of a record. -/
theorem takeField_putField_end {w : Nat} (v : BitVec w) : takeField w (putField v) = (v, []) := by
  have := takeField_putField v []
  rwa [List.append_nil] at this

/-- A flag is read back from its byte. -/
theorem takeFlag_putFlag (b : Bool) (rest : List Byte) : takeFlag (putFlag b ++ rest) = (b, rest) := by
  unfold takeFlag putFlag
  rw [takeField_putField]
  cases b <;> rfl

theorem takeCoeff_putCoeff (c : Coeff) (rest : List Byte) : takeCoeff (putCoeff c ++ rest) = (c, rest) := by
  unfold takeCoeff putCoeff
  simp only [List.append_assoc, takeField_putField]

/-- A coefficient of a present group, or the zeros of an absent one (R123). -/
theorem takeCoeffIf_putCoeffIf (p : Bool) (c : Coeff) (rest : List Byte) (h : p = false → c = ⟨0, 0, 0, 0⟩) :
    takeCoeffIf p (putCoeffIf p c ++ rest) = (c, rest) := by
  cases p with
  | true => exact takeCoeff_putCoeff c rest
  | false => rw [h rfl]; rfl

theorem takeColor_putColor (r g b a : BitVec 8) (rest : List Byte) :
    takeColor (putColor r g b a ++ rest) = (⟨r, g, b, a⟩, rest) := by
  unfold takeColor putColor
  simp only [List.append_assoc, takeField_putField]

/-- A tag in 0x08..0x0F is `DRAW_TRI` (R121). -/
theorem decode_tri (b : Byte) (bs : List Byte) (h : b.toNat / 8 = 1) :
    decode (b :: bs) = .ok (.drawTri (decodeTri b bs)) := if_pos h

/-- The three flags of a `DRAW_TRI` tag (R121). -/
theorem triTag_bits (shade texture zbuf : Bool) :
    (triTag shade texture zbuf).toNat / 8 = 1 ∧ (triTag shade texture zbuf).getLsbD 2 = shade ∧
    (triTag shade texture zbuf).getLsbD 1 = texture ∧ (triTag shade texture zbuf).getLsbD 0 = zbuf := by
  revert shade texture zbuf
  decide

/-- What a well-formed `DRAW_TRI` record holds in an absent group (R123). -/
theorem TriCmd.wf_absent {c : TriCmd} (h : c.wf = true) :
    (c.shade = false → c.r = ⟨0, 0, 0, 0⟩ ∧ c.g = ⟨0, 0, 0, 0⟩ ∧ c.b = ⟨0, 0, 0, 0⟩ ∧ c.a = ⟨0, 0, 0, 0⟩) ∧
    (c.texture = false → c.s = ⟨0, 0, 0, 0⟩ ∧ c.t = ⟨0, 0, 0, 0⟩ ∧ c.w = ⟨0, 0, 0, 0⟩) ∧
    (c.zbuf = false → c.z = ⟨0, 0, 0, 0⟩) := by
  simp only [TriCmd.wf, Coeff.zero, Bool.and_eq_true, Bool.or_eq_true] at h
  obtain ⟨⟨h1, h2⟩, h3⟩ := h
  refine ⟨fun e => ?_, fun e => ?_, fun e => ?_⟩
  · exact of_decide_eq_true (h1.resolve_left (by simp [e]))
  · exact of_decide_eq_true (h2.resolve_left (by simp [e]))
  · exact of_decide_eq_true (h3.resolve_left (by simp [e]))

/-- The `DRAW_TRI` record is read back whole. -/
theorem decodeTri_encodeTri (c : TriCmd) (h : c.wf = true) (rest : List Byte) :
    ∃ b bs, encodeTri c = b :: bs ∧ b.toNat / 8 = 1 ∧ decodeTri b (bs ++ rest) = c := by
  obtain ⟨h1, h2, h3, h4⟩ := triTag_bits c.shade c.texture c.zbuf
  obtain ⟨k1, k2, k3⟩ := TriCmd.wf_absent h
  refine ⟨_, _, rfl, h1, ?_⟩
  unfold decodeTri
  simp only [List.append_assoc, takeFlag_putFlag, takeField_putField, h2, h3, h4]
  rw [takeCoeffIf_putCoeffIf _ _ _ (fun e => (k1 e).1)]
  simp only
  rw [takeCoeffIf_putCoeffIf _ _ _ (fun e => (k1 e).2.1)]
  simp only
  rw [takeCoeffIf_putCoeffIf _ _ _ (fun e => (k1 e).2.2.1)]
  simp only
  rw [takeCoeffIf_putCoeffIf _ _ _ (fun e => (k1 e).2.2.2)]
  simp only
  rw [takeCoeffIf_putCoeffIf _ _ _ (fun e => (k2 e).1)]
  simp only
  rw [takeCoeffIf_putCoeffIf _ _ _ (fun e => (k2 e).2.1)]
  simp only
  rw [takeCoeffIf_putCoeffIf _ _ _ (fun e => (k2 e).2.2)]
  simp only
  rw [takeCoeffIf_putCoeffIf _ _ _ k3]

end Sys2Proof
end

