-- ==== Sys2Proof/Laws/Loops.lean ====
section
/-! SUPPORT. The induction of each counted loop, stated once: an invariant of the loop index and of what the loop carries. -/

namespace Sys2Proof.Machine

/-- What a loop keeps from index to index, it keeps to the end. -/
theorem forUp_inv {σ : Type} {body : Int → σ → σ} (I : Int → σ → Prop) (n : Nat) (lo : Int) (x : σ)
    (step : ∀ i x, lo ≤ i → i < lo + n → I i x → I (i + 1) (body i x)) (h : I lo x) : I (lo + n) (forUp body n lo x) := by
  induction n generalizing lo x with
  | zero => simpa [forUp] using h
  | succ n ih =>
    have := ih (lo + 1) (body lo x) (fun i x h1 h2 => step i x (by omega) (by omega)) (step lo x (by omega) (by omega) h)
    simp only [forUp]
    have e : lo + 1 + (n : Int) = lo + ((n + 1 : Nat) : Int) := by omega
    exact e ▸ this

/-- The same for a loop whose body may refuse, when it does not. -/
theorem forUpE_inv {σ : Type} {body : Int → σ → Except Refusal σ} (I : Int → σ → Prop) (n : Nat) (lo : Int) (x y : σ)
    (step : ∀ i x y, lo ≤ i → i < lo + n → I i x → body i x = .ok y → I (i + 1) y) (h : I lo x)
    (hy : forUpE body n lo x = .ok y) : I (lo + n) y := by
  induction n generalizing lo x with
  | zero =>
    simp only [forUpE, Except.ok.injEq] at hy
    subst hy
    simpa using h
  | succ n ih =>
    simp only [forUpE] at hy
    split at hy
    · next x' hx =>
      have := ih (lo + 1) x' (fun i x y h1 h2 => step i x y (by omega) (by omega))
        (step lo x x' (by omega) (by omega) h hx) hy
      have e : lo + 1 + (n : Int) = lo + ((n + 1 : Nat) : Int) := by omega
      exact e ▸ this
    · cases hy

/-- A loop completes when its body does in every state that its invariant admits. -/
theorem forUpE_ok {σ : Type} {body : Int → σ → Except Refusal σ} (I : Int → σ → Prop) (n : Nat) (lo : Int) (x : σ)
    (step : ∀ i x, lo ≤ i → i < lo + n → I i x → ∃ y, body i x = .ok y ∧ I (i + 1) y) (h : I lo x) :
    ∃ y, forUpE body n lo x = .ok y ∧ I (lo + n) y := by
  induction n generalizing lo x with
  | zero => exact ⟨x, rfl, by simpa using h⟩
  | succ n ih =>
    obtain ⟨x', hx, hi⟩ := step lo x (by omega) (by omega) h
    obtain ⟨y, hy, hI⟩ := ih (lo + 1) x' (fun i x h1 h2 => step i x (by omega) (by omega)) hi
    refine ⟨y, by simp only [forUpE, hx, hy], ?_⟩
    have e : lo + 1 + (n : Int) = lo + ((n + 1 : Nat) : Int) := by omega
    exact e ▸ hI

/-- The indices of a counted loop. -/
theorem lt_count {lo hi i : Int} (h : i < lo + (count lo hi : Nat)) (h1 : lo ≤ i) : i ≤ hi := by
  unfold count at h
  omega

/-- A sequence of two stages gives a result just when both do. -/
theorem andThen_ok {α β : Type} {x : Except Refusal α} {f : α → Except Refusal β} {y : β} :
    andThen x f = .ok y ↔ ∃ v, x = .ok v ∧ f v = .ok y := by
  cases x <;> simp [andThen]

end Sys2Proof.Machine
end

