-- ==== Sys2Proof/Laws/State.lean ====
section
/-! SUPPORT. One lemma per field per update of State, each true by rfl. -/

namespace Sys2Proof.Machine

variable (s : State)

/-! ### setCol -/

@[simp] theorem State.setCol_col (x : ColorRegs) : (s.setCol x).gs.col = x := rfl
@[simp] theorem State.setCol_sca (x : ColorRegs) : (s.setCol x).gs.sca = s.gs.sca := rfl
@[simp] theorem State.setCol_seq (x : ColorRegs) : (s.setCol x).gs.seq = s.gs.seq := rfl
@[simp] theorem State.setCol_pipelineCrashed (x : ColorRegs) : (s.setCol x).gs.pipelineCrashed = s.gs.pipelineCrashed := rfl
@[simp] theorem State.setCol_stale (x : ColorRegs) : (s.setCol x).gs.stale = s.gs.stale := rfl
@[simp] theorem State.setCol_flags (x : ColorRegs) : (s.setCol x).gs.flags = s.gs.flags := rfl
@[simp] theorem State.setCol_der (x : ColorRegs) : (s.setCol x).gs.der = s.gs.der := rfl
@[simp] theorem State.setCol_tiles (x : ColorRegs) : (s.setCol x).gs.tiles = s.gs.tiles := rfl
@[simp] theorem State.setCol_om (x : ColorRegs) : (s.setCol x).gs.om = s.gs.om := rfl
@[simp] theorem State.setCol_cc (x : ColorRegs) : (s.setCol x).gs.cc = s.gs.cc := rfl
@[simp] theorem State.setCol_clip (x : ColorRegs) : (s.setCol x).gs.clip = s.gs.clip := rfl
@[simp] theorem State.setCol_img (x : ColorRegs) : (s.setCol x).gs.img = s.gs.img := rfl
@[simp] theorem State.setCol_misc (x : ColorRegs) : (s.setCol x).gs.misc = s.gs.misc := rfl
@[simp] theorem State.setCol_span (x : ColorRegs) : (s.setCol x).gs.span = s.gs.span := rfl
@[simp] theorem State.setCol_slopes (x : ColorRegs) : (s.setCol x).gs.slopes = s.gs.slopes := rfl
@[simp] theorem State.setCol_cvgbuf (x : ColorRegs) : (s.setCol x).gs.cvgbuf = s.gs.cvgbuf := rfl
@[simp] theorem State.setCol_hid (x : ColorRegs) : (s.setCol x).gs.hid = s.gs.hid := rfl
@[simp] theorem State.setCol_ram (x : ColorRegs) : (s.setCol x).ram = s.ram := rfl
@[simp] theorem State.setCol_hidden (x : ColorRegs) : (s.setCol x).hidden = s.hidden := rfl
@[simp] theorem State.setCol_tmem (x : ColorRegs) : (s.setCol x).tmem = s.tmem := rfl
@[simp] theorem State.setCol_ramExtra (x : ColorRegs) : (s.setCol x).ramExtra = s.ramExtra := rfl
@[simp] theorem State.setCol_port (x : ColorRegs) : (s.setCol x).port = s.port := rfl
@[simp] theorem State.setCol_ret (x : ColorRegs) : (s.setCol x).ret = s.ret := rfl
@[simp] theorem State.setCol_setCol (x y : ColorRegs) : (s.setCol x).setCol y = s.setCol y := rfl

/-! ### setSca -/

@[simp] theorem State.setSca_col (x : ScalarRegs) : (s.setSca x).gs.col = s.gs.col := rfl
@[simp] theorem State.setSca_sca (x : ScalarRegs) : (s.setSca x).gs.sca = x := rfl
@[simp] theorem State.setSca_seq (x : ScalarRegs) : (s.setSca x).gs.seq = s.gs.seq := rfl
@[simp] theorem State.setSca_pipelineCrashed (x : ScalarRegs) : (s.setSca x).gs.pipelineCrashed = s.gs.pipelineCrashed := rfl
@[simp] theorem State.setSca_stale (x : ScalarRegs) : (s.setSca x).gs.stale = s.gs.stale := rfl
@[simp] theorem State.setSca_flags (x : ScalarRegs) : (s.setSca x).gs.flags = s.gs.flags := rfl
@[simp] theorem State.setSca_der (x : ScalarRegs) : (s.setSca x).gs.der = s.gs.der := rfl
@[simp] theorem State.setSca_tiles (x : ScalarRegs) : (s.setSca x).gs.tiles = s.gs.tiles := rfl
@[simp] theorem State.setSca_om (x : ScalarRegs) : (s.setSca x).gs.om = s.gs.om := rfl
@[simp] theorem State.setSca_cc (x : ScalarRegs) : (s.setSca x).gs.cc = s.gs.cc := rfl
@[simp] theorem State.setSca_clip (x : ScalarRegs) : (s.setSca x).gs.clip = s.gs.clip := rfl
@[simp] theorem State.setSca_img (x : ScalarRegs) : (s.setSca x).gs.img = s.gs.img := rfl
@[simp] theorem State.setSca_misc (x : ScalarRegs) : (s.setSca x).gs.misc = s.gs.misc := rfl
@[simp] theorem State.setSca_span (x : ScalarRegs) : (s.setSca x).gs.span = s.gs.span := rfl
@[simp] theorem State.setSca_slopes (x : ScalarRegs) : (s.setSca x).gs.slopes = s.gs.slopes := rfl
@[simp] theorem State.setSca_cvgbuf (x : ScalarRegs) : (s.setSca x).gs.cvgbuf = s.gs.cvgbuf := rfl
@[simp] theorem State.setSca_hid (x : ScalarRegs) : (s.setSca x).gs.hid = s.gs.hid := rfl
@[simp] theorem State.setSca_ram (x : ScalarRegs) : (s.setSca x).ram = s.ram := rfl
@[simp] theorem State.setSca_hidden (x : ScalarRegs) : (s.setSca x).hidden = s.hidden := rfl
@[simp] theorem State.setSca_tmem (x : ScalarRegs) : (s.setSca x).tmem = s.tmem := rfl
@[simp] theorem State.setSca_ramExtra (x : ScalarRegs) : (s.setSca x).ramExtra = s.ramExtra := rfl
@[simp] theorem State.setSca_port (x : ScalarRegs) : (s.setSca x).port = s.port := rfl
@[simp] theorem State.setSca_ret (x : ScalarRegs) : (s.setSca x).ret = s.ret := rfl
@[simp] theorem State.setSca_setSca (x y : ScalarRegs) : (s.setSca x).setSca y = s.setSca y := rfl

/-! ### setSeq -/

@[simp] theorem State.setSeq_col (x : Seq) : (s.setSeq x).gs.col = s.gs.col := rfl
@[simp] theorem State.setSeq_sca (x : Seq) : (s.setSeq x).gs.sca = s.gs.sca := rfl
@[simp] theorem State.setSeq_seq (x : Seq) : (s.setSeq x).gs.seq = x := rfl
@[simp] theorem State.setSeq_pipelineCrashed (x : Seq) : (s.setSeq x).gs.pipelineCrashed = s.gs.pipelineCrashed := rfl
@[simp] theorem State.setSeq_stale (x : Seq) : (s.setSeq x).gs.stale = s.gs.stale := rfl
@[simp] theorem State.setSeq_flags (x : Seq) : (s.setSeq x).gs.flags = s.gs.flags := rfl
@[simp] theorem State.setSeq_der (x : Seq) : (s.setSeq x).gs.der = s.gs.der := rfl
@[simp] theorem State.setSeq_tiles (x : Seq) : (s.setSeq x).gs.tiles = s.gs.tiles := rfl
@[simp] theorem State.setSeq_om (x : Seq) : (s.setSeq x).gs.om = s.gs.om := rfl
@[simp] theorem State.setSeq_cc (x : Seq) : (s.setSeq x).gs.cc = s.gs.cc := rfl
@[simp] theorem State.setSeq_clip (x : Seq) : (s.setSeq x).gs.clip = s.gs.clip := rfl
@[simp] theorem State.setSeq_img (x : Seq) : (s.setSeq x).gs.img = s.gs.img := rfl
@[simp] theorem State.setSeq_misc (x : Seq) : (s.setSeq x).gs.misc = s.gs.misc := rfl
@[simp] theorem State.setSeq_span (x : Seq) : (s.setSeq x).gs.span = s.gs.span := rfl
@[simp] theorem State.setSeq_slopes (x : Seq) : (s.setSeq x).gs.slopes = s.gs.slopes := rfl
@[simp] theorem State.setSeq_cvgbuf (x : Seq) : (s.setSeq x).gs.cvgbuf = s.gs.cvgbuf := rfl
@[simp] theorem State.setSeq_hid (x : Seq) : (s.setSeq x).gs.hid = s.gs.hid := rfl
@[simp] theorem State.setSeq_ram (x : Seq) : (s.setSeq x).ram = s.ram := rfl
@[simp] theorem State.setSeq_hidden (x : Seq) : (s.setSeq x).hidden = s.hidden := rfl
@[simp] theorem State.setSeq_tmem (x : Seq) : (s.setSeq x).tmem = s.tmem := rfl
@[simp] theorem State.setSeq_ramExtra (x : Seq) : (s.setSeq x).ramExtra = s.ramExtra := rfl
@[simp] theorem State.setSeq_port (x : Seq) : (s.setSeq x).port = s.port := rfl
@[simp] theorem State.setSeq_ret (x : Seq) : (s.setSeq x).ret = s.ret := rfl
@[simp] theorem State.setSeq_setSeq (x y : Seq) : (s.setSeq x).setSeq y = s.setSeq y := rfl

/-! ### setCrashed -/

@[simp] theorem State.setCrashed_col (x : Bool) : (s.setCrashed x).gs.col = s.gs.col := rfl
@[simp] theorem State.setCrashed_sca (x : Bool) : (s.setCrashed x).gs.sca = s.gs.sca := rfl
@[simp] theorem State.setCrashed_seq (x : Bool) : (s.setCrashed x).gs.seq = s.gs.seq := rfl
@[simp] theorem State.setCrashed_pipelineCrashed (x : Bool) : (s.setCrashed x).gs.pipelineCrashed = x := rfl
@[simp] theorem State.setCrashed_stale (x : Bool) : (s.setCrashed x).gs.stale = s.gs.stale := rfl
@[simp] theorem State.setCrashed_flags (x : Bool) : (s.setCrashed x).gs.flags = s.gs.flags := rfl
@[simp] theorem State.setCrashed_der (x : Bool) : (s.setCrashed x).gs.der = s.gs.der := rfl
@[simp] theorem State.setCrashed_tiles (x : Bool) : (s.setCrashed x).gs.tiles = s.gs.tiles := rfl
@[simp] theorem State.setCrashed_om (x : Bool) : (s.setCrashed x).gs.om = s.gs.om := rfl
@[simp] theorem State.setCrashed_cc (x : Bool) : (s.setCrashed x).gs.cc = s.gs.cc := rfl
@[simp] theorem State.setCrashed_clip (x : Bool) : (s.setCrashed x).gs.clip = s.gs.clip := rfl
@[simp] theorem State.setCrashed_img (x : Bool) : (s.setCrashed x).gs.img = s.gs.img := rfl
@[simp] theorem State.setCrashed_misc (x : Bool) : (s.setCrashed x).gs.misc = s.gs.misc := rfl
@[simp] theorem State.setCrashed_span (x : Bool) : (s.setCrashed x).gs.span = s.gs.span := rfl
@[simp] theorem State.setCrashed_slopes (x : Bool) : (s.setCrashed x).gs.slopes = s.gs.slopes := rfl
@[simp] theorem State.setCrashed_cvgbuf (x : Bool) : (s.setCrashed x).gs.cvgbuf = s.gs.cvgbuf := rfl
@[simp] theorem State.setCrashed_hid (x : Bool) : (s.setCrashed x).gs.hid = s.gs.hid := rfl
@[simp] theorem State.setCrashed_ram (x : Bool) : (s.setCrashed x).ram = s.ram := rfl
@[simp] theorem State.setCrashed_hidden (x : Bool) : (s.setCrashed x).hidden = s.hidden := rfl
@[simp] theorem State.setCrashed_tmem (x : Bool) : (s.setCrashed x).tmem = s.tmem := rfl
@[simp] theorem State.setCrashed_ramExtra (x : Bool) : (s.setCrashed x).ramExtra = s.ramExtra := rfl
@[simp] theorem State.setCrashed_port (x : Bool) : (s.setCrashed x).port = s.port := rfl
@[simp] theorem State.setCrashed_ret (x : Bool) : (s.setCrashed x).ret = s.ret := rfl
@[simp] theorem State.setCrashed_setCrashed (x y : Bool) : (s.setCrashed x).setCrashed y = s.setCrashed y := rfl

/-! ### setStale -/

@[simp] theorem State.setStale_col (x : Bool) : (s.setStale x).gs.col = s.gs.col := rfl
@[simp] theorem State.setStale_sca (x : Bool) : (s.setStale x).gs.sca = s.gs.sca := rfl
@[simp] theorem State.setStale_seq (x : Bool) : (s.setStale x).gs.seq = s.gs.seq := rfl
@[simp] theorem State.setStale_pipelineCrashed (x : Bool) : (s.setStale x).gs.pipelineCrashed = s.gs.pipelineCrashed := rfl
@[simp] theorem State.setStale_stale (x : Bool) : (s.setStale x).gs.stale = x := rfl
@[simp] theorem State.setStale_flags (x : Bool) : (s.setStale x).gs.flags = s.gs.flags := rfl
@[simp] theorem State.setStale_der (x : Bool) : (s.setStale x).gs.der = s.gs.der := rfl
@[simp] theorem State.setStale_tiles (x : Bool) : (s.setStale x).gs.tiles = s.gs.tiles := rfl
@[simp] theorem State.setStale_om (x : Bool) : (s.setStale x).gs.om = s.gs.om := rfl
@[simp] theorem State.setStale_cc (x : Bool) : (s.setStale x).gs.cc = s.gs.cc := rfl
@[simp] theorem State.setStale_clip (x : Bool) : (s.setStale x).gs.clip = s.gs.clip := rfl
@[simp] theorem State.setStale_img (x : Bool) : (s.setStale x).gs.img = s.gs.img := rfl
@[simp] theorem State.setStale_misc (x : Bool) : (s.setStale x).gs.misc = s.gs.misc := rfl
@[simp] theorem State.setStale_span (x : Bool) : (s.setStale x).gs.span = s.gs.span := rfl
@[simp] theorem State.setStale_slopes (x : Bool) : (s.setStale x).gs.slopes = s.gs.slopes := rfl
@[simp] theorem State.setStale_cvgbuf (x : Bool) : (s.setStale x).gs.cvgbuf = s.gs.cvgbuf := rfl
@[simp] theorem State.setStale_hid (x : Bool) : (s.setStale x).gs.hid = s.gs.hid := rfl
@[simp] theorem State.setStale_ram (x : Bool) : (s.setStale x).ram = s.ram := rfl
@[simp] theorem State.setStale_hidden (x : Bool) : (s.setStale x).hidden = s.hidden := rfl
@[simp] theorem State.setStale_tmem (x : Bool) : (s.setStale x).tmem = s.tmem := rfl
@[simp] theorem State.setStale_ramExtra (x : Bool) : (s.setStale x).ramExtra = s.ramExtra := rfl
@[simp] theorem State.setStale_port (x : Bool) : (s.setStale x).port = s.port := rfl
@[simp] theorem State.setStale_ret (x : Bool) : (s.setStale x).ret = s.ret := rfl
@[simp] theorem State.setStale_setStale (x y : Bool) : (s.setStale x).setStale y = s.setStale y := rfl

/-! ### setFlags -/

@[simp] theorem State.setFlags_col (x : DrawFlags) : (s.setFlags x).gs.col = s.gs.col := rfl
@[simp] theorem State.setFlags_sca (x : DrawFlags) : (s.setFlags x).gs.sca = s.gs.sca := rfl
@[simp] theorem State.setFlags_seq (x : DrawFlags) : (s.setFlags x).gs.seq = s.gs.seq := rfl
@[simp] theorem State.setFlags_pipelineCrashed (x : DrawFlags) : (s.setFlags x).gs.pipelineCrashed = s.gs.pipelineCrashed := rfl
@[simp] theorem State.setFlags_stale (x : DrawFlags) : (s.setFlags x).gs.stale = s.gs.stale := rfl
@[simp] theorem State.setFlags_flags (x : DrawFlags) : (s.setFlags x).gs.flags = x := rfl
@[simp] theorem State.setFlags_der (x : DrawFlags) : (s.setFlags x).gs.der = s.gs.der := rfl
@[simp] theorem State.setFlags_tiles (x : DrawFlags) : (s.setFlags x).gs.tiles = s.gs.tiles := rfl
@[simp] theorem State.setFlags_om (x : DrawFlags) : (s.setFlags x).gs.om = s.gs.om := rfl
@[simp] theorem State.setFlags_cc (x : DrawFlags) : (s.setFlags x).gs.cc = s.gs.cc := rfl
@[simp] theorem State.setFlags_clip (x : DrawFlags) : (s.setFlags x).gs.clip = s.gs.clip := rfl
@[simp] theorem State.setFlags_img (x : DrawFlags) : (s.setFlags x).gs.img = s.gs.img := rfl
@[simp] theorem State.setFlags_misc (x : DrawFlags) : (s.setFlags x).gs.misc = s.gs.misc := rfl
@[simp] theorem State.setFlags_span (x : DrawFlags) : (s.setFlags x).gs.span = s.gs.span := rfl
@[simp] theorem State.setFlags_slopes (x : DrawFlags) : (s.setFlags x).gs.slopes = s.gs.slopes := rfl
@[simp] theorem State.setFlags_cvgbuf (x : DrawFlags) : (s.setFlags x).gs.cvgbuf = s.gs.cvgbuf := rfl
@[simp] theorem State.setFlags_hid (x : DrawFlags) : (s.setFlags x).gs.hid = s.gs.hid := rfl
@[simp] theorem State.setFlags_ram (x : DrawFlags) : (s.setFlags x).ram = s.ram := rfl
@[simp] theorem State.setFlags_hidden (x : DrawFlags) : (s.setFlags x).hidden = s.hidden := rfl
@[simp] theorem State.setFlags_tmem (x : DrawFlags) : (s.setFlags x).tmem = s.tmem := rfl
@[simp] theorem State.setFlags_ramExtra (x : DrawFlags) : (s.setFlags x).ramExtra = s.ramExtra := rfl
@[simp] theorem State.setFlags_port (x : DrawFlags) : (s.setFlags x).port = s.port := rfl
@[simp] theorem State.setFlags_ret (x : DrawFlags) : (s.setFlags x).ret = s.ret := rfl
@[simp] theorem State.setFlags_setFlags (x y : DrawFlags) : (s.setFlags x).setFlags y = s.setFlags y := rfl

/-! ### setDer -/

@[simp] theorem State.setDer_col (x : Derived) : (s.setDer x).gs.col = s.gs.col := rfl
@[simp] theorem State.setDer_sca (x : Derived) : (s.setDer x).gs.sca = s.gs.sca := rfl
@[simp] theorem State.setDer_seq (x : Derived) : (s.setDer x).gs.seq = s.gs.seq := rfl
@[simp] theorem State.setDer_pipelineCrashed (x : Derived) : (s.setDer x).gs.pipelineCrashed = s.gs.pipelineCrashed := rfl
@[simp] theorem State.setDer_stale (x : Derived) : (s.setDer x).gs.stale = s.gs.stale := rfl
@[simp] theorem State.setDer_flags (x : Derived) : (s.setDer x).gs.flags = s.gs.flags := rfl
@[simp] theorem State.setDer_der (x : Derived) : (s.setDer x).gs.der = x := rfl
@[simp] theorem State.setDer_tiles (x : Derived) : (s.setDer x).gs.tiles = s.gs.tiles := rfl
@[simp] theorem State.setDer_om (x : Derived) : (s.setDer x).gs.om = s.gs.om := rfl
@[simp] theorem State.setDer_cc (x : Derived) : (s.setDer x).gs.cc = s.gs.cc := rfl
@[simp] theorem State.setDer_clip (x : Derived) : (s.setDer x).gs.clip = s.gs.clip := rfl
@[simp] theorem State.setDer_img (x : Derived) : (s.setDer x).gs.img = s.gs.img := rfl
@[simp] theorem State.setDer_misc (x : Derived) : (s.setDer x).gs.misc = s.gs.misc := rfl
@[simp] theorem State.setDer_span (x : Derived) : (s.setDer x).gs.span = s.gs.span := rfl
@[simp] theorem State.setDer_slopes (x : Derived) : (s.setDer x).gs.slopes = s.gs.slopes := rfl
@[simp] theorem State.setDer_cvgbuf (x : Derived) : (s.setDer x).gs.cvgbuf = s.gs.cvgbuf := rfl
@[simp] theorem State.setDer_hid (x : Derived) : (s.setDer x).gs.hid = s.gs.hid := rfl
@[simp] theorem State.setDer_ram (x : Derived) : (s.setDer x).ram = s.ram := rfl
@[simp] theorem State.setDer_hidden (x : Derived) : (s.setDer x).hidden = s.hidden := rfl
@[simp] theorem State.setDer_tmem (x : Derived) : (s.setDer x).tmem = s.tmem := rfl
@[simp] theorem State.setDer_ramExtra (x : Derived) : (s.setDer x).ramExtra = s.ramExtra := rfl
@[simp] theorem State.setDer_port (x : Derived) : (s.setDer x).port = s.port := rfl
@[simp] theorem State.setDer_ret (x : Derived) : (s.setDer x).ret = s.ret := rfl
@[simp] theorem State.setDer_setDer (x y : Derived) : (s.setDer x).setDer y = s.setDer y := rfl

/-! ### setTiles -/

@[simp] theorem State.setTiles_col (x : Vector Tile 8) : (s.setTiles x).gs.col = s.gs.col := rfl
@[simp] theorem State.setTiles_sca (x : Vector Tile 8) : (s.setTiles x).gs.sca = s.gs.sca := rfl
@[simp] theorem State.setTiles_seq (x : Vector Tile 8) : (s.setTiles x).gs.seq = s.gs.seq := rfl
@[simp] theorem State.setTiles_pipelineCrashed (x : Vector Tile 8) : (s.setTiles x).gs.pipelineCrashed = s.gs.pipelineCrashed := rfl
@[simp] theorem State.setTiles_stale (x : Vector Tile 8) : (s.setTiles x).gs.stale = s.gs.stale := rfl
@[simp] theorem State.setTiles_flags (x : Vector Tile 8) : (s.setTiles x).gs.flags = s.gs.flags := rfl
@[simp] theorem State.setTiles_der (x : Vector Tile 8) : (s.setTiles x).gs.der = s.gs.der := rfl
@[simp] theorem State.setTiles_tiles (x : Vector Tile 8) : (s.setTiles x).gs.tiles = x := rfl
@[simp] theorem State.setTiles_om (x : Vector Tile 8) : (s.setTiles x).gs.om = s.gs.om := rfl
@[simp] theorem State.setTiles_cc (x : Vector Tile 8) : (s.setTiles x).gs.cc = s.gs.cc := rfl
@[simp] theorem State.setTiles_clip (x : Vector Tile 8) : (s.setTiles x).gs.clip = s.gs.clip := rfl
@[simp] theorem State.setTiles_img (x : Vector Tile 8) : (s.setTiles x).gs.img = s.gs.img := rfl
@[simp] theorem State.setTiles_misc (x : Vector Tile 8) : (s.setTiles x).gs.misc = s.gs.misc := rfl
@[simp] theorem State.setTiles_span (x : Vector Tile 8) : (s.setTiles x).gs.span = s.gs.span := rfl
@[simp] theorem State.setTiles_slopes (x : Vector Tile 8) : (s.setTiles x).gs.slopes = s.gs.slopes := rfl
@[simp] theorem State.setTiles_cvgbuf (x : Vector Tile 8) : (s.setTiles x).gs.cvgbuf = s.gs.cvgbuf := rfl
@[simp] theorem State.setTiles_hid (x : Vector Tile 8) : (s.setTiles x).gs.hid = s.gs.hid := rfl
@[simp] theorem State.setTiles_ram (x : Vector Tile 8) : (s.setTiles x).ram = s.ram := rfl
@[simp] theorem State.setTiles_hidden (x : Vector Tile 8) : (s.setTiles x).hidden = s.hidden := rfl
@[simp] theorem State.setTiles_tmem (x : Vector Tile 8) : (s.setTiles x).tmem = s.tmem := rfl
@[simp] theorem State.setTiles_ramExtra (x : Vector Tile 8) : (s.setTiles x).ramExtra = s.ramExtra := rfl
@[simp] theorem State.setTiles_port (x : Vector Tile 8) : (s.setTiles x).port = s.port := rfl
@[simp] theorem State.setTiles_ret (x : Vector Tile 8) : (s.setTiles x).ret = s.ret := rfl
@[simp] theorem State.setTiles_setTiles (x y : Vector Tile 8) : (s.setTiles x).setTiles y = s.setTiles y := rfl

/-! ### setOm -/

@[simp] theorem State.setOm_col (x : BitVec 64) : (s.setOm x).gs.col = s.gs.col := rfl
@[simp] theorem State.setOm_sca (x : BitVec 64) : (s.setOm x).gs.sca = s.gs.sca := rfl
@[simp] theorem State.setOm_seq (x : BitVec 64) : (s.setOm x).gs.seq = s.gs.seq := rfl
@[simp] theorem State.setOm_pipelineCrashed (x : BitVec 64) : (s.setOm x).gs.pipelineCrashed = s.gs.pipelineCrashed := rfl
@[simp] theorem State.setOm_stale (x : BitVec 64) : (s.setOm x).gs.stale = s.gs.stale := rfl
@[simp] theorem State.setOm_flags (x : BitVec 64) : (s.setOm x).gs.flags = s.gs.flags := rfl
@[simp] theorem State.setOm_der (x : BitVec 64) : (s.setOm x).gs.der = s.gs.der := rfl
@[simp] theorem State.setOm_tiles (x : BitVec 64) : (s.setOm x).gs.tiles = s.gs.tiles := rfl
@[simp] theorem State.setOm_om (x : BitVec 64) : (s.setOm x).gs.om = x := rfl
@[simp] theorem State.setOm_cc (x : BitVec 64) : (s.setOm x).gs.cc = s.gs.cc := rfl
@[simp] theorem State.setOm_clip (x : BitVec 64) : (s.setOm x).gs.clip = s.gs.clip := rfl
@[simp] theorem State.setOm_img (x : BitVec 64) : (s.setOm x).gs.img = s.gs.img := rfl
@[simp] theorem State.setOm_misc (x : BitVec 64) : (s.setOm x).gs.misc = s.gs.misc := rfl
@[simp] theorem State.setOm_span (x : BitVec 64) : (s.setOm x).gs.span = s.gs.span := rfl
@[simp] theorem State.setOm_slopes (x : BitVec 64) : (s.setOm x).gs.slopes = s.gs.slopes := rfl
@[simp] theorem State.setOm_cvgbuf (x : BitVec 64) : (s.setOm x).gs.cvgbuf = s.gs.cvgbuf := rfl
@[simp] theorem State.setOm_hid (x : BitVec 64) : (s.setOm x).gs.hid = s.gs.hid := rfl
@[simp] theorem State.setOm_ram (x : BitVec 64) : (s.setOm x).ram = s.ram := rfl
@[simp] theorem State.setOm_hidden (x : BitVec 64) : (s.setOm x).hidden = s.hidden := rfl
@[simp] theorem State.setOm_tmem (x : BitVec 64) : (s.setOm x).tmem = s.tmem := rfl
@[simp] theorem State.setOm_ramExtra (x : BitVec 64) : (s.setOm x).ramExtra = s.ramExtra := rfl
@[simp] theorem State.setOm_port (x : BitVec 64) : (s.setOm x).port = s.port := rfl
@[simp] theorem State.setOm_ret (x : BitVec 64) : (s.setOm x).ret = s.ret := rfl
@[simp] theorem State.setOm_setOm (x y : BitVec 64) : (s.setOm x).setOm y = s.setOm y := rfl

/-! ### setCc -/

@[simp] theorem State.setCc_col (x : BitVec 64) : (s.setCc x).gs.col = s.gs.col := rfl
@[simp] theorem State.setCc_sca (x : BitVec 64) : (s.setCc x).gs.sca = s.gs.sca := rfl
@[simp] theorem State.setCc_seq (x : BitVec 64) : (s.setCc x).gs.seq = s.gs.seq := rfl
@[simp] theorem State.setCc_pipelineCrashed (x : BitVec 64) : (s.setCc x).gs.pipelineCrashed = s.gs.pipelineCrashed := rfl
@[simp] theorem State.setCc_stale (x : BitVec 64) : (s.setCc x).gs.stale = s.gs.stale := rfl
@[simp] theorem State.setCc_flags (x : BitVec 64) : (s.setCc x).gs.flags = s.gs.flags := rfl
@[simp] theorem State.setCc_der (x : BitVec 64) : (s.setCc x).gs.der = s.gs.der := rfl
@[simp] theorem State.setCc_tiles (x : BitVec 64) : (s.setCc x).gs.tiles = s.gs.tiles := rfl
@[simp] theorem State.setCc_om (x : BitVec 64) : (s.setCc x).gs.om = s.gs.om := rfl
@[simp] theorem State.setCc_cc (x : BitVec 64) : (s.setCc x).gs.cc = x := rfl
@[simp] theorem State.setCc_clip (x : BitVec 64) : (s.setCc x).gs.clip = s.gs.clip := rfl
@[simp] theorem State.setCc_img (x : BitVec 64) : (s.setCc x).gs.img = s.gs.img := rfl
@[simp] theorem State.setCc_misc (x : BitVec 64) : (s.setCc x).gs.misc = s.gs.misc := rfl
@[simp] theorem State.setCc_span (x : BitVec 64) : (s.setCc x).gs.span = s.gs.span := rfl
@[simp] theorem State.setCc_slopes (x : BitVec 64) : (s.setCc x).gs.slopes = s.gs.slopes := rfl
@[simp] theorem State.setCc_cvgbuf (x : BitVec 64) : (s.setCc x).gs.cvgbuf = s.gs.cvgbuf := rfl
@[simp] theorem State.setCc_hid (x : BitVec 64) : (s.setCc x).gs.hid = s.gs.hid := rfl
@[simp] theorem State.setCc_ram (x : BitVec 64) : (s.setCc x).ram = s.ram := rfl
@[simp] theorem State.setCc_hidden (x : BitVec 64) : (s.setCc x).hidden = s.hidden := rfl
@[simp] theorem State.setCc_tmem (x : BitVec 64) : (s.setCc x).tmem = s.tmem := rfl
@[simp] theorem State.setCc_ramExtra (x : BitVec 64) : (s.setCc x).ramExtra = s.ramExtra := rfl
@[simp] theorem State.setCc_port (x : BitVec 64) : (s.setCc x).port = s.port := rfl
@[simp] theorem State.setCc_ret (x : BitVec 64) : (s.setCc x).ret = s.ret := rfl
@[simp] theorem State.setCc_setCc (x y : BitVec 64) : (s.setCc x).setCc y = s.setCc y := rfl

/-! ### setClip -/

@[simp] theorem State.setClip_col (x : Clip) : (s.setClip x).gs.col = s.gs.col := rfl
@[simp] theorem State.setClip_sca (x : Clip) : (s.setClip x).gs.sca = s.gs.sca := rfl
@[simp] theorem State.setClip_seq (x : Clip) : (s.setClip x).gs.seq = s.gs.seq := rfl
@[simp] theorem State.setClip_pipelineCrashed (x : Clip) : (s.setClip x).gs.pipelineCrashed = s.gs.pipelineCrashed := rfl
@[simp] theorem State.setClip_stale (x : Clip) : (s.setClip x).gs.stale = s.gs.stale := rfl
@[simp] theorem State.setClip_flags (x : Clip) : (s.setClip x).gs.flags = s.gs.flags := rfl
@[simp] theorem State.setClip_der (x : Clip) : (s.setClip x).gs.der = s.gs.der := rfl
@[simp] theorem State.setClip_tiles (x : Clip) : (s.setClip x).gs.tiles = s.gs.tiles := rfl
@[simp] theorem State.setClip_om (x : Clip) : (s.setClip x).gs.om = s.gs.om := rfl
@[simp] theorem State.setClip_cc (x : Clip) : (s.setClip x).gs.cc = s.gs.cc := rfl
@[simp] theorem State.setClip_clip (x : Clip) : (s.setClip x).gs.clip = x := rfl
@[simp] theorem State.setClip_img (x : Clip) : (s.setClip x).gs.img = s.gs.img := rfl
@[simp] theorem State.setClip_misc (x : Clip) : (s.setClip x).gs.misc = s.gs.misc := rfl
@[simp] theorem State.setClip_span (x : Clip) : (s.setClip x).gs.span = s.gs.span := rfl
@[simp] theorem State.setClip_slopes (x : Clip) : (s.setClip x).gs.slopes = s.gs.slopes := rfl
@[simp] theorem State.setClip_cvgbuf (x : Clip) : (s.setClip x).gs.cvgbuf = s.gs.cvgbuf := rfl
@[simp] theorem State.setClip_hid (x : Clip) : (s.setClip x).gs.hid = s.gs.hid := rfl
@[simp] theorem State.setClip_ram (x : Clip) : (s.setClip x).ram = s.ram := rfl
@[simp] theorem State.setClip_hidden (x : Clip) : (s.setClip x).hidden = s.hidden := rfl
@[simp] theorem State.setClip_tmem (x : Clip) : (s.setClip x).tmem = s.tmem := rfl
@[simp] theorem State.setClip_ramExtra (x : Clip) : (s.setClip x).ramExtra = s.ramExtra := rfl
@[simp] theorem State.setClip_port (x : Clip) : (s.setClip x).port = s.port := rfl
@[simp] theorem State.setClip_ret (x : Clip) : (s.setClip x).ret = s.ret := rfl
@[simp] theorem State.setClip_setClip (x y : Clip) : (s.setClip x).setClip y = s.setClip y := rfl

/-! ### setImg -/

@[simp] theorem State.setImg_col (x : ImageRegs) : (s.setImg x).gs.col = s.gs.col := rfl
@[simp] theorem State.setImg_sca (x : ImageRegs) : (s.setImg x).gs.sca = s.gs.sca := rfl
@[simp] theorem State.setImg_seq (x : ImageRegs) : (s.setImg x).gs.seq = s.gs.seq := rfl
@[simp] theorem State.setImg_pipelineCrashed (x : ImageRegs) : (s.setImg x).gs.pipelineCrashed = s.gs.pipelineCrashed := rfl
@[simp] theorem State.setImg_stale (x : ImageRegs) : (s.setImg x).gs.stale = s.gs.stale := rfl
@[simp] theorem State.setImg_flags (x : ImageRegs) : (s.setImg x).gs.flags = s.gs.flags := rfl
@[simp] theorem State.setImg_der (x : ImageRegs) : (s.setImg x).gs.der = s.gs.der := rfl
@[simp] theorem State.setImg_tiles (x : ImageRegs) : (s.setImg x).gs.tiles = s.gs.tiles := rfl
@[simp] theorem State.setImg_om (x : ImageRegs) : (s.setImg x).gs.om = s.gs.om := rfl
@[simp] theorem State.setImg_cc (x : ImageRegs) : (s.setImg x).gs.cc = s.gs.cc := rfl
@[simp] theorem State.setImg_clip (x : ImageRegs) : (s.setImg x).gs.clip = s.gs.clip := rfl
@[simp] theorem State.setImg_img (x : ImageRegs) : (s.setImg x).gs.img = x := rfl
@[simp] theorem State.setImg_misc (x : ImageRegs) : (s.setImg x).gs.misc = s.gs.misc := rfl
@[simp] theorem State.setImg_span (x : ImageRegs) : (s.setImg x).gs.span = s.gs.span := rfl
@[simp] theorem State.setImg_slopes (x : ImageRegs) : (s.setImg x).gs.slopes = s.gs.slopes := rfl
@[simp] theorem State.setImg_cvgbuf (x : ImageRegs) : (s.setImg x).gs.cvgbuf = s.gs.cvgbuf := rfl
@[simp] theorem State.setImg_hid (x : ImageRegs) : (s.setImg x).gs.hid = s.gs.hid := rfl
@[simp] theorem State.setImg_ram (x : ImageRegs) : (s.setImg x).ram = s.ram := rfl
@[simp] theorem State.setImg_hidden (x : ImageRegs) : (s.setImg x).hidden = s.hidden := rfl
@[simp] theorem State.setImg_tmem (x : ImageRegs) : (s.setImg x).tmem = s.tmem := rfl
@[simp] theorem State.setImg_ramExtra (x : ImageRegs) : (s.setImg x).ramExtra = s.ramExtra := rfl
@[simp] theorem State.setImg_port (x : ImageRegs) : (s.setImg x).port = s.port := rfl
@[simp] theorem State.setImg_ret (x : ImageRegs) : (s.setImg x).ret = s.ret := rfl
@[simp] theorem State.setImg_setImg (x y : ImageRegs) : (s.setImg x).setImg y = s.setImg y := rfl

/-! ### setMisc -/

@[simp] theorem State.setMisc_col (x : MiscRegs) : (s.setMisc x).gs.col = s.gs.col := rfl
@[simp] theorem State.setMisc_sca (x : MiscRegs) : (s.setMisc x).gs.sca = s.gs.sca := rfl
@[simp] theorem State.setMisc_seq (x : MiscRegs) : (s.setMisc x).gs.seq = s.gs.seq := rfl
@[simp] theorem State.setMisc_pipelineCrashed (x : MiscRegs) : (s.setMisc x).gs.pipelineCrashed = s.gs.pipelineCrashed := rfl
@[simp] theorem State.setMisc_stale (x : MiscRegs) : (s.setMisc x).gs.stale = s.gs.stale := rfl
@[simp] theorem State.setMisc_flags (x : MiscRegs) : (s.setMisc x).gs.flags = s.gs.flags := rfl
@[simp] theorem State.setMisc_der (x : MiscRegs) : (s.setMisc x).gs.der = s.gs.der := rfl
@[simp] theorem State.setMisc_tiles (x : MiscRegs) : (s.setMisc x).gs.tiles = s.gs.tiles := rfl
@[simp] theorem State.setMisc_om (x : MiscRegs) : (s.setMisc x).gs.om = s.gs.om := rfl
@[simp] theorem State.setMisc_cc (x : MiscRegs) : (s.setMisc x).gs.cc = s.gs.cc := rfl
@[simp] theorem State.setMisc_clip (x : MiscRegs) : (s.setMisc x).gs.clip = s.gs.clip := rfl
@[simp] theorem State.setMisc_img (x : MiscRegs) : (s.setMisc x).gs.img = s.gs.img := rfl
@[simp] theorem State.setMisc_misc (x : MiscRegs) : (s.setMisc x).gs.misc = x := rfl
@[simp] theorem State.setMisc_span (x : MiscRegs) : (s.setMisc x).gs.span = s.gs.span := rfl
@[simp] theorem State.setMisc_slopes (x : MiscRegs) : (s.setMisc x).gs.slopes = s.gs.slopes := rfl
@[simp] theorem State.setMisc_cvgbuf (x : MiscRegs) : (s.setMisc x).gs.cvgbuf = s.gs.cvgbuf := rfl
@[simp] theorem State.setMisc_hid (x : MiscRegs) : (s.setMisc x).gs.hid = s.gs.hid := rfl
@[simp] theorem State.setMisc_ram (x : MiscRegs) : (s.setMisc x).ram = s.ram := rfl
@[simp] theorem State.setMisc_hidden (x : MiscRegs) : (s.setMisc x).hidden = s.hidden := rfl
@[simp] theorem State.setMisc_tmem (x : MiscRegs) : (s.setMisc x).tmem = s.tmem := rfl
@[simp] theorem State.setMisc_ramExtra (x : MiscRegs) : (s.setMisc x).ramExtra = s.ramExtra := rfl
@[simp] theorem State.setMisc_port (x : MiscRegs) : (s.setMisc x).port = s.port := rfl
@[simp] theorem State.setMisc_ret (x : MiscRegs) : (s.setMisc x).ret = s.ret := rfl
@[simp] theorem State.setMisc_setMisc (x y : MiscRegs) : (s.setMisc x).setMisc y = s.setMisc y := rfl

/-! ### setSpan -/

@[simp] theorem State.setSpan_col (x : List (Nat × Span)) : (s.setSpan x).gs.col = s.gs.col := rfl
@[simp] theorem State.setSpan_sca (x : List (Nat × Span)) : (s.setSpan x).gs.sca = s.gs.sca := rfl
@[simp] theorem State.setSpan_seq (x : List (Nat × Span)) : (s.setSpan x).gs.seq = s.gs.seq := rfl
@[simp] theorem State.setSpan_pipelineCrashed (x : List (Nat × Span)) : (s.setSpan x).gs.pipelineCrashed = s.gs.pipelineCrashed := rfl
@[simp] theorem State.setSpan_stale (x : List (Nat × Span)) : (s.setSpan x).gs.stale = s.gs.stale := rfl
@[simp] theorem State.setSpan_flags (x : List (Nat × Span)) : (s.setSpan x).gs.flags = s.gs.flags := rfl
@[simp] theorem State.setSpan_der (x : List (Nat × Span)) : (s.setSpan x).gs.der = s.gs.der := rfl
@[simp] theorem State.setSpan_tiles (x : List (Nat × Span)) : (s.setSpan x).gs.tiles = s.gs.tiles := rfl
@[simp] theorem State.setSpan_om (x : List (Nat × Span)) : (s.setSpan x).gs.om = s.gs.om := rfl
@[simp] theorem State.setSpan_cc (x : List (Nat × Span)) : (s.setSpan x).gs.cc = s.gs.cc := rfl
@[simp] theorem State.setSpan_clip (x : List (Nat × Span)) : (s.setSpan x).gs.clip = s.gs.clip := rfl
@[simp] theorem State.setSpan_img (x : List (Nat × Span)) : (s.setSpan x).gs.img = s.gs.img := rfl
@[simp] theorem State.setSpan_misc (x : List (Nat × Span)) : (s.setSpan x).gs.misc = s.gs.misc := rfl
@[simp] theorem State.setSpan_span (x : List (Nat × Span)) : (s.setSpan x).gs.span = x := rfl
@[simp] theorem State.setSpan_slopes (x : List (Nat × Span)) : (s.setSpan x).gs.slopes = s.gs.slopes := rfl
@[simp] theorem State.setSpan_cvgbuf (x : List (Nat × Span)) : (s.setSpan x).gs.cvgbuf = s.gs.cvgbuf := rfl
@[simp] theorem State.setSpan_hid (x : List (Nat × Span)) : (s.setSpan x).gs.hid = s.gs.hid := rfl
@[simp] theorem State.setSpan_ram (x : List (Nat × Span)) : (s.setSpan x).ram = s.ram := rfl
@[simp] theorem State.setSpan_hidden (x : List (Nat × Span)) : (s.setSpan x).hidden = s.hidden := rfl
@[simp] theorem State.setSpan_tmem (x : List (Nat × Span)) : (s.setSpan x).tmem = s.tmem := rfl
@[simp] theorem State.setSpan_ramExtra (x : List (Nat × Span)) : (s.setSpan x).ramExtra = s.ramExtra := rfl
@[simp] theorem State.setSpan_port (x : List (Nat × Span)) : (s.setSpan x).port = s.port := rfl
@[simp] theorem State.setSpan_ret (x : List (Nat × Span)) : (s.setSpan x).ret = s.ret := rfl
@[simp] theorem State.setSpan_setSpan (x y : List (Nat × Span)) : (s.setSpan x).setSpan y = s.setSpan y := rfl

/-! ### setSlopes -/

@[simp] theorem State.setSlopes_col (x : Slopes) : (s.setSlopes x).gs.col = s.gs.col := rfl
@[simp] theorem State.setSlopes_sca (x : Slopes) : (s.setSlopes x).gs.sca = s.gs.sca := rfl
@[simp] theorem State.setSlopes_seq (x : Slopes) : (s.setSlopes x).gs.seq = s.gs.seq := rfl
@[simp] theorem State.setSlopes_pipelineCrashed (x : Slopes) : (s.setSlopes x).gs.pipelineCrashed = s.gs.pipelineCrashed := rfl
@[simp] theorem State.setSlopes_stale (x : Slopes) : (s.setSlopes x).gs.stale = s.gs.stale := rfl
@[simp] theorem State.setSlopes_flags (x : Slopes) : (s.setSlopes x).gs.flags = s.gs.flags := rfl
@[simp] theorem State.setSlopes_der (x : Slopes) : (s.setSlopes x).gs.der = s.gs.der := rfl
@[simp] theorem State.setSlopes_tiles (x : Slopes) : (s.setSlopes x).gs.tiles = s.gs.tiles := rfl
@[simp] theorem State.setSlopes_om (x : Slopes) : (s.setSlopes x).gs.om = s.gs.om := rfl
@[simp] theorem State.setSlopes_cc (x : Slopes) : (s.setSlopes x).gs.cc = s.gs.cc := rfl
@[simp] theorem State.setSlopes_clip (x : Slopes) : (s.setSlopes x).gs.clip = s.gs.clip := rfl
@[simp] theorem State.setSlopes_img (x : Slopes) : (s.setSlopes x).gs.img = s.gs.img := rfl
@[simp] theorem State.setSlopes_misc (x : Slopes) : (s.setSlopes x).gs.misc = s.gs.misc := rfl
@[simp] theorem State.setSlopes_span (x : Slopes) : (s.setSlopes x).gs.span = s.gs.span := rfl
@[simp] theorem State.setSlopes_slopes (x : Slopes) : (s.setSlopes x).gs.slopes = x := rfl
@[simp] theorem State.setSlopes_cvgbuf (x : Slopes) : (s.setSlopes x).gs.cvgbuf = s.gs.cvgbuf := rfl
@[simp] theorem State.setSlopes_hid (x : Slopes) : (s.setSlopes x).gs.hid = s.gs.hid := rfl
@[simp] theorem State.setSlopes_ram (x : Slopes) : (s.setSlopes x).ram = s.ram := rfl
@[simp] theorem State.setSlopes_hidden (x : Slopes) : (s.setSlopes x).hidden = s.hidden := rfl
@[simp] theorem State.setSlopes_tmem (x : Slopes) : (s.setSlopes x).tmem = s.tmem := rfl
@[simp] theorem State.setSlopes_ramExtra (x : Slopes) : (s.setSlopes x).ramExtra = s.ramExtra := rfl
@[simp] theorem State.setSlopes_port (x : Slopes) : (s.setSlopes x).port = s.port := rfl
@[simp] theorem State.setSlopes_ret (x : Slopes) : (s.setSlopes x).ret = s.ret := rfl
@[simp] theorem State.setSlopes_setSlopes (x y : Slopes) : (s.setSlopes x).setSlopes y = s.setSlopes y := rfl

/-! ### setCvgbuf -/

@[simp] theorem State.setCvgbuf_col (x : List Host.Cell) : (s.setCvgbuf x).gs.col = s.gs.col := rfl
@[simp] theorem State.setCvgbuf_sca (x : List Host.Cell) : (s.setCvgbuf x).gs.sca = s.gs.sca := rfl
@[simp] theorem State.setCvgbuf_seq (x : List Host.Cell) : (s.setCvgbuf x).gs.seq = s.gs.seq := rfl
@[simp] theorem State.setCvgbuf_pipelineCrashed (x : List Host.Cell) : (s.setCvgbuf x).gs.pipelineCrashed = s.gs.pipelineCrashed := rfl
@[simp] theorem State.setCvgbuf_stale (x : List Host.Cell) : (s.setCvgbuf x).gs.stale = s.gs.stale := rfl
@[simp] theorem State.setCvgbuf_flags (x : List Host.Cell) : (s.setCvgbuf x).gs.flags = s.gs.flags := rfl
@[simp] theorem State.setCvgbuf_der (x : List Host.Cell) : (s.setCvgbuf x).gs.der = s.gs.der := rfl
@[simp] theorem State.setCvgbuf_tiles (x : List Host.Cell) : (s.setCvgbuf x).gs.tiles = s.gs.tiles := rfl
@[simp] theorem State.setCvgbuf_om (x : List Host.Cell) : (s.setCvgbuf x).gs.om = s.gs.om := rfl
@[simp] theorem State.setCvgbuf_cc (x : List Host.Cell) : (s.setCvgbuf x).gs.cc = s.gs.cc := rfl
@[simp] theorem State.setCvgbuf_clip (x : List Host.Cell) : (s.setCvgbuf x).gs.clip = s.gs.clip := rfl
@[simp] theorem State.setCvgbuf_img (x : List Host.Cell) : (s.setCvgbuf x).gs.img = s.gs.img := rfl
@[simp] theorem State.setCvgbuf_misc (x : List Host.Cell) : (s.setCvgbuf x).gs.misc = s.gs.misc := rfl
@[simp] theorem State.setCvgbuf_span (x : List Host.Cell) : (s.setCvgbuf x).gs.span = s.gs.span := rfl
@[simp] theorem State.setCvgbuf_slopes (x : List Host.Cell) : (s.setCvgbuf x).gs.slopes = s.gs.slopes := rfl
@[simp] theorem State.setCvgbuf_cvgbuf (x : List Host.Cell) : (s.setCvgbuf x).gs.cvgbuf = x := rfl
@[simp] theorem State.setCvgbuf_hid (x : List Host.Cell) : (s.setCvgbuf x).gs.hid = s.gs.hid := rfl
@[simp] theorem State.setCvgbuf_ram (x : List Host.Cell) : (s.setCvgbuf x).ram = s.ram := rfl
@[simp] theorem State.setCvgbuf_hidden (x : List Host.Cell) : (s.setCvgbuf x).hidden = s.hidden := rfl
@[simp] theorem State.setCvgbuf_tmem (x : List Host.Cell) : (s.setCvgbuf x).tmem = s.tmem := rfl
@[simp] theorem State.setCvgbuf_ramExtra (x : List Host.Cell) : (s.setCvgbuf x).ramExtra = s.ramExtra := rfl
@[simp] theorem State.setCvgbuf_port (x : List Host.Cell) : (s.setCvgbuf x).port = s.port := rfl
@[simp] theorem State.setCvgbuf_ret (x : List Host.Cell) : (s.setCvgbuf x).ret = s.ret := rfl
@[simp] theorem State.setCvgbuf_setCvgbuf (x y : List Host.Cell) : (s.setCvgbuf x).setCvgbuf y = s.setCvgbuf y := rfl

/-! ### setHid -/

@[simp] theorem State.setHid_col (x : HiddenRegs) : (s.setHid x).gs.col = s.gs.col := rfl
@[simp] theorem State.setHid_sca (x : HiddenRegs) : (s.setHid x).gs.sca = s.gs.sca := rfl
@[simp] theorem State.setHid_seq (x : HiddenRegs) : (s.setHid x).gs.seq = s.gs.seq := rfl
@[simp] theorem State.setHid_pipelineCrashed (x : HiddenRegs) : (s.setHid x).gs.pipelineCrashed = s.gs.pipelineCrashed := rfl
@[simp] theorem State.setHid_stale (x : HiddenRegs) : (s.setHid x).gs.stale = s.gs.stale := rfl
@[simp] theorem State.setHid_flags (x : HiddenRegs) : (s.setHid x).gs.flags = s.gs.flags := rfl
@[simp] theorem State.setHid_der (x : HiddenRegs) : (s.setHid x).gs.der = s.gs.der := rfl
@[simp] theorem State.setHid_tiles (x : HiddenRegs) : (s.setHid x).gs.tiles = s.gs.tiles := rfl
@[simp] theorem State.setHid_om (x : HiddenRegs) : (s.setHid x).gs.om = s.gs.om := rfl
@[simp] theorem State.setHid_cc (x : HiddenRegs) : (s.setHid x).gs.cc = s.gs.cc := rfl
@[simp] theorem State.setHid_clip (x : HiddenRegs) : (s.setHid x).gs.clip = s.gs.clip := rfl
@[simp] theorem State.setHid_img (x : HiddenRegs) : (s.setHid x).gs.img = s.gs.img := rfl
@[simp] theorem State.setHid_misc (x : HiddenRegs) : (s.setHid x).gs.misc = s.gs.misc := rfl
@[simp] theorem State.setHid_span (x : HiddenRegs) : (s.setHid x).gs.span = s.gs.span := rfl
@[simp] theorem State.setHid_slopes (x : HiddenRegs) : (s.setHid x).gs.slopes = s.gs.slopes := rfl
@[simp] theorem State.setHid_cvgbuf (x : HiddenRegs) : (s.setHid x).gs.cvgbuf = s.gs.cvgbuf := rfl
@[simp] theorem State.setHid_hid (x : HiddenRegs) : (s.setHid x).gs.hid = x := rfl
@[simp] theorem State.setHid_ram (x : HiddenRegs) : (s.setHid x).ram = s.ram := rfl
@[simp] theorem State.setHid_hidden (x : HiddenRegs) : (s.setHid x).hidden = s.hidden := rfl
@[simp] theorem State.setHid_tmem (x : HiddenRegs) : (s.setHid x).tmem = s.tmem := rfl
@[simp] theorem State.setHid_ramExtra (x : HiddenRegs) : (s.setHid x).ramExtra = s.ramExtra := rfl
@[simp] theorem State.setHid_port (x : HiddenRegs) : (s.setHid x).port = s.port := rfl
@[simp] theorem State.setHid_ret (x : HiddenRegs) : (s.setHid x).ret = s.ret := rfl
@[simp] theorem State.setHid_setHid (x y : HiddenRegs) : (s.setHid x).setHid y = s.setHid y := rfl

/-! ### setRam -/

@[simp] theorem State.setRam_col (x : List Host.Cell) : (s.setRam x).gs.col = s.gs.col := rfl
@[simp] theorem State.setRam_sca (x : List Host.Cell) : (s.setRam x).gs.sca = s.gs.sca := rfl
@[simp] theorem State.setRam_seq (x : List Host.Cell) : (s.setRam x).gs.seq = s.gs.seq := rfl
@[simp] theorem State.setRam_pipelineCrashed (x : List Host.Cell) : (s.setRam x).gs.pipelineCrashed = s.gs.pipelineCrashed := rfl
@[simp] theorem State.setRam_stale (x : List Host.Cell) : (s.setRam x).gs.stale = s.gs.stale := rfl
@[simp] theorem State.setRam_flags (x : List Host.Cell) : (s.setRam x).gs.flags = s.gs.flags := rfl
@[simp] theorem State.setRam_der (x : List Host.Cell) : (s.setRam x).gs.der = s.gs.der := rfl
@[simp] theorem State.setRam_tiles (x : List Host.Cell) : (s.setRam x).gs.tiles = s.gs.tiles := rfl
@[simp] theorem State.setRam_om (x : List Host.Cell) : (s.setRam x).gs.om = s.gs.om := rfl
@[simp] theorem State.setRam_cc (x : List Host.Cell) : (s.setRam x).gs.cc = s.gs.cc := rfl
@[simp] theorem State.setRam_clip (x : List Host.Cell) : (s.setRam x).gs.clip = s.gs.clip := rfl
@[simp] theorem State.setRam_img (x : List Host.Cell) : (s.setRam x).gs.img = s.gs.img := rfl
@[simp] theorem State.setRam_misc (x : List Host.Cell) : (s.setRam x).gs.misc = s.gs.misc := rfl
@[simp] theorem State.setRam_span (x : List Host.Cell) : (s.setRam x).gs.span = s.gs.span := rfl
@[simp] theorem State.setRam_slopes (x : List Host.Cell) : (s.setRam x).gs.slopes = s.gs.slopes := rfl
@[simp] theorem State.setRam_cvgbuf (x : List Host.Cell) : (s.setRam x).gs.cvgbuf = s.gs.cvgbuf := rfl
@[simp] theorem State.setRam_hid (x : List Host.Cell) : (s.setRam x).gs.hid = s.gs.hid := rfl
@[simp] theorem State.setRam_ram (x : List Host.Cell) : (s.setRam x).ram = x := rfl
@[simp] theorem State.setRam_hidden (x : List Host.Cell) : (s.setRam x).hidden = s.hidden := rfl
@[simp] theorem State.setRam_tmem (x : List Host.Cell) : (s.setRam x).tmem = s.tmem := rfl
@[simp] theorem State.setRam_ramExtra (x : List Host.Cell) : (s.setRam x).ramExtra = s.ramExtra := rfl
@[simp] theorem State.setRam_port (x : List Host.Cell) : (s.setRam x).port = s.port := rfl
@[simp] theorem State.setRam_ret (x : List Host.Cell) : (s.setRam x).ret = s.ret := rfl
@[simp] theorem State.setRam_gs (x : List Host.Cell) : (s.setRam x).gs = s.gs := rfl
@[simp] theorem State.setRam_setRam (x y : List Host.Cell) : (s.setRam x).setRam y = s.setRam y := rfl

/-! ### setHidden -/

@[simp] theorem State.setHidden_col (x : List (Nat × BitVec 2)) : (s.setHidden x).gs.col = s.gs.col := rfl
@[simp] theorem State.setHidden_sca (x : List (Nat × BitVec 2)) : (s.setHidden x).gs.sca = s.gs.sca := rfl
@[simp] theorem State.setHidden_seq (x : List (Nat × BitVec 2)) : (s.setHidden x).gs.seq = s.gs.seq := rfl
@[simp] theorem State.setHidden_pipelineCrashed (x : List (Nat × BitVec 2)) : (s.setHidden x).gs.pipelineCrashed = s.gs.pipelineCrashed := rfl
@[simp] theorem State.setHidden_stale (x : List (Nat × BitVec 2)) : (s.setHidden x).gs.stale = s.gs.stale := rfl
@[simp] theorem State.setHidden_flags (x : List (Nat × BitVec 2)) : (s.setHidden x).gs.flags = s.gs.flags := rfl
@[simp] theorem State.setHidden_der (x : List (Nat × BitVec 2)) : (s.setHidden x).gs.der = s.gs.der := rfl
@[simp] theorem State.setHidden_tiles (x : List (Nat × BitVec 2)) : (s.setHidden x).gs.tiles = s.gs.tiles := rfl
@[simp] theorem State.setHidden_om (x : List (Nat × BitVec 2)) : (s.setHidden x).gs.om = s.gs.om := rfl
@[simp] theorem State.setHidden_cc (x : List (Nat × BitVec 2)) : (s.setHidden x).gs.cc = s.gs.cc := rfl
@[simp] theorem State.setHidden_clip (x : List (Nat × BitVec 2)) : (s.setHidden x).gs.clip = s.gs.clip := rfl
@[simp] theorem State.setHidden_img (x : List (Nat × BitVec 2)) : (s.setHidden x).gs.img = s.gs.img := rfl
@[simp] theorem State.setHidden_misc (x : List (Nat × BitVec 2)) : (s.setHidden x).gs.misc = s.gs.misc := rfl
@[simp] theorem State.setHidden_span (x : List (Nat × BitVec 2)) : (s.setHidden x).gs.span = s.gs.span := rfl
@[simp] theorem State.setHidden_slopes (x : List (Nat × BitVec 2)) : (s.setHidden x).gs.slopes = s.gs.slopes := rfl
@[simp] theorem State.setHidden_cvgbuf (x : List (Nat × BitVec 2)) : (s.setHidden x).gs.cvgbuf = s.gs.cvgbuf := rfl
@[simp] theorem State.setHidden_hid (x : List (Nat × BitVec 2)) : (s.setHidden x).gs.hid = s.gs.hid := rfl
@[simp] theorem State.setHidden_ram (x : List (Nat × BitVec 2)) : (s.setHidden x).ram = s.ram := rfl
@[simp] theorem State.setHidden_hidden (x : List (Nat × BitVec 2)) : (s.setHidden x).hidden = x := rfl
@[simp] theorem State.setHidden_tmem (x : List (Nat × BitVec 2)) : (s.setHidden x).tmem = s.tmem := rfl
@[simp] theorem State.setHidden_ramExtra (x : List (Nat × BitVec 2)) : (s.setHidden x).ramExtra = s.ramExtra := rfl
@[simp] theorem State.setHidden_port (x : List (Nat × BitVec 2)) : (s.setHidden x).port = s.port := rfl
@[simp] theorem State.setHidden_ret (x : List (Nat × BitVec 2)) : (s.setHidden x).ret = s.ret := rfl
@[simp] theorem State.setHidden_gs (x : List (Nat × BitVec 2)) : (s.setHidden x).gs = s.gs := rfl
@[simp] theorem State.setHidden_setHidden (x y : List (Nat × BitVec 2)) : (s.setHidden x).setHidden y = s.setHidden y := rfl

/-! ### setTmem -/

@[simp] theorem State.setTmem_col (x : List Host.Cell) : (s.setTmem x).gs.col = s.gs.col := rfl
@[simp] theorem State.setTmem_sca (x : List Host.Cell) : (s.setTmem x).gs.sca = s.gs.sca := rfl
@[simp] theorem State.setTmem_seq (x : List Host.Cell) : (s.setTmem x).gs.seq = s.gs.seq := rfl
@[simp] theorem State.setTmem_pipelineCrashed (x : List Host.Cell) : (s.setTmem x).gs.pipelineCrashed = s.gs.pipelineCrashed := rfl
@[simp] theorem State.setTmem_stale (x : List Host.Cell) : (s.setTmem x).gs.stale = s.gs.stale := rfl
@[simp] theorem State.setTmem_flags (x : List Host.Cell) : (s.setTmem x).gs.flags = s.gs.flags := rfl
@[simp] theorem State.setTmem_der (x : List Host.Cell) : (s.setTmem x).gs.der = s.gs.der := rfl
@[simp] theorem State.setTmem_tiles (x : List Host.Cell) : (s.setTmem x).gs.tiles = s.gs.tiles := rfl
@[simp] theorem State.setTmem_om (x : List Host.Cell) : (s.setTmem x).gs.om = s.gs.om := rfl
@[simp] theorem State.setTmem_cc (x : List Host.Cell) : (s.setTmem x).gs.cc = s.gs.cc := rfl
@[simp] theorem State.setTmem_clip (x : List Host.Cell) : (s.setTmem x).gs.clip = s.gs.clip := rfl
@[simp] theorem State.setTmem_img (x : List Host.Cell) : (s.setTmem x).gs.img = s.gs.img := rfl
@[simp] theorem State.setTmem_misc (x : List Host.Cell) : (s.setTmem x).gs.misc = s.gs.misc := rfl
@[simp] theorem State.setTmem_span (x : List Host.Cell) : (s.setTmem x).gs.span = s.gs.span := rfl
@[simp] theorem State.setTmem_slopes (x : List Host.Cell) : (s.setTmem x).gs.slopes = s.gs.slopes := rfl
@[simp] theorem State.setTmem_cvgbuf (x : List Host.Cell) : (s.setTmem x).gs.cvgbuf = s.gs.cvgbuf := rfl
@[simp] theorem State.setTmem_hid (x : List Host.Cell) : (s.setTmem x).gs.hid = s.gs.hid := rfl
@[simp] theorem State.setTmem_ram (x : List Host.Cell) : (s.setTmem x).ram = s.ram := rfl
@[simp] theorem State.setTmem_hidden (x : List Host.Cell) : (s.setTmem x).hidden = s.hidden := rfl
@[simp] theorem State.setTmem_tmem (x : List Host.Cell) : (s.setTmem x).tmem = x := rfl
@[simp] theorem State.setTmem_ramExtra (x : List Host.Cell) : (s.setTmem x).ramExtra = s.ramExtra := rfl
@[simp] theorem State.setTmem_port (x : List Host.Cell) : (s.setTmem x).port = s.port := rfl
@[simp] theorem State.setTmem_ret (x : List Host.Cell) : (s.setTmem x).ret = s.ret := rfl
@[simp] theorem State.setTmem_gs (x : List Host.Cell) : (s.setTmem x).gs = s.gs := rfl
@[simp] theorem State.setTmem_setTmem (x y : List Host.Cell) : (s.setTmem x).setTmem y = s.setTmem y := rfl

/-! ### setPort -/

@[simp] theorem State.setPort_col (x : List (List Byte)) : (s.setPort x).gs.col = s.gs.col := rfl
@[simp] theorem State.setPort_sca (x : List (List Byte)) : (s.setPort x).gs.sca = s.gs.sca := rfl
@[simp] theorem State.setPort_seq (x : List (List Byte)) : (s.setPort x).gs.seq = s.gs.seq := rfl
@[simp] theorem State.setPort_pipelineCrashed (x : List (List Byte)) : (s.setPort x).gs.pipelineCrashed = s.gs.pipelineCrashed := rfl
@[simp] theorem State.setPort_stale (x : List (List Byte)) : (s.setPort x).gs.stale = s.gs.stale := rfl
@[simp] theorem State.setPort_flags (x : List (List Byte)) : (s.setPort x).gs.flags = s.gs.flags := rfl
@[simp] theorem State.setPort_der (x : List (List Byte)) : (s.setPort x).gs.der = s.gs.der := rfl
@[simp] theorem State.setPort_tiles (x : List (List Byte)) : (s.setPort x).gs.tiles = s.gs.tiles := rfl
@[simp] theorem State.setPort_om (x : List (List Byte)) : (s.setPort x).gs.om = s.gs.om := rfl
@[simp] theorem State.setPort_cc (x : List (List Byte)) : (s.setPort x).gs.cc = s.gs.cc := rfl
@[simp] theorem State.setPort_clip (x : List (List Byte)) : (s.setPort x).gs.clip = s.gs.clip := rfl
@[simp] theorem State.setPort_img (x : List (List Byte)) : (s.setPort x).gs.img = s.gs.img := rfl
@[simp] theorem State.setPort_misc (x : List (List Byte)) : (s.setPort x).gs.misc = s.gs.misc := rfl
@[simp] theorem State.setPort_span (x : List (List Byte)) : (s.setPort x).gs.span = s.gs.span := rfl
@[simp] theorem State.setPort_slopes (x : List (List Byte)) : (s.setPort x).gs.slopes = s.gs.slopes := rfl
@[simp] theorem State.setPort_cvgbuf (x : List (List Byte)) : (s.setPort x).gs.cvgbuf = s.gs.cvgbuf := rfl
@[simp] theorem State.setPort_hid (x : List (List Byte)) : (s.setPort x).gs.hid = s.gs.hid := rfl
@[simp] theorem State.setPort_ram (x : List (List Byte)) : (s.setPort x).ram = s.ram := rfl
@[simp] theorem State.setPort_hidden (x : List (List Byte)) : (s.setPort x).hidden = s.hidden := rfl
@[simp] theorem State.setPort_tmem (x : List (List Byte)) : (s.setPort x).tmem = s.tmem := rfl
@[simp] theorem State.setPort_ramExtra (x : List (List Byte)) : (s.setPort x).ramExtra = s.ramExtra := rfl
@[simp] theorem State.setPort_port (x : List (List Byte)) : (s.setPort x).port = x := rfl
@[simp] theorem State.setPort_ret (x : List (List Byte)) : (s.setPort x).ret = s.ret := rfl
@[simp] theorem State.setPort_gs (x : List (List Byte)) : (s.setPort x).gs = s.gs := rfl
@[simp] theorem State.setPort_setPort (x y : List (List Byte)) : (s.setPort x).setPort y = s.setPort y := rfl

/-! ### setRet -/

@[simp] theorem State.setRet_col (x : Ret) : (s.setRet x).gs.col = s.gs.col := rfl
@[simp] theorem State.setRet_sca (x : Ret) : (s.setRet x).gs.sca = s.gs.sca := rfl
@[simp] theorem State.setRet_seq (x : Ret) : (s.setRet x).gs.seq = s.gs.seq := rfl
@[simp] theorem State.setRet_pipelineCrashed (x : Ret) : (s.setRet x).gs.pipelineCrashed = s.gs.pipelineCrashed := rfl
@[simp] theorem State.setRet_stale (x : Ret) : (s.setRet x).gs.stale = s.gs.stale := rfl
@[simp] theorem State.setRet_flags (x : Ret) : (s.setRet x).gs.flags = s.gs.flags := rfl
@[simp] theorem State.setRet_der (x : Ret) : (s.setRet x).gs.der = s.gs.der := rfl
@[simp] theorem State.setRet_tiles (x : Ret) : (s.setRet x).gs.tiles = s.gs.tiles := rfl
@[simp] theorem State.setRet_om (x : Ret) : (s.setRet x).gs.om = s.gs.om := rfl
@[simp] theorem State.setRet_cc (x : Ret) : (s.setRet x).gs.cc = s.gs.cc := rfl
@[simp] theorem State.setRet_clip (x : Ret) : (s.setRet x).gs.clip = s.gs.clip := rfl
@[simp] theorem State.setRet_img (x : Ret) : (s.setRet x).gs.img = s.gs.img := rfl
@[simp] theorem State.setRet_misc (x : Ret) : (s.setRet x).gs.misc = s.gs.misc := rfl
@[simp] theorem State.setRet_span (x : Ret) : (s.setRet x).gs.span = s.gs.span := rfl
@[simp] theorem State.setRet_slopes (x : Ret) : (s.setRet x).gs.slopes = s.gs.slopes := rfl
@[simp] theorem State.setRet_cvgbuf (x : Ret) : (s.setRet x).gs.cvgbuf = s.gs.cvgbuf := rfl
@[simp] theorem State.setRet_hid (x : Ret) : (s.setRet x).gs.hid = s.gs.hid := rfl
@[simp] theorem State.setRet_ram (x : Ret) : (s.setRet x).ram = s.ram := rfl
@[simp] theorem State.setRet_hidden (x : Ret) : (s.setRet x).hidden = s.hidden := rfl
@[simp] theorem State.setRet_tmem (x : Ret) : (s.setRet x).tmem = s.tmem := rfl
@[simp] theorem State.setRet_ramExtra (x : Ret) : (s.setRet x).ramExtra = s.ramExtra := rfl
@[simp] theorem State.setRet_port (x : Ret) : (s.setRet x).port = s.port := rfl
@[simp] theorem State.setRet_ret (x : Ret) : (s.setRet x).ret = x := rfl
@[simp] theorem State.setRet_gs (x : Ret) : (s.setRet x).gs = s.gs := rfl
@[simp] theorem State.setRet_setRet (x y : Ret) : (s.setRet x).setRet y = s.setRet y := rfl

/-! ### The compound updates -/

@[simp] theorem State.setPhase_col (p : Phase) : (s.setPhase p).gs.col = s.gs.col := rfl
@[simp] theorem State.setPhase_sca (p : Phase) : (s.setPhase p).gs.sca = s.gs.sca := rfl
@[simp] theorem State.setPhase_seq (p : Phase) : (s.setPhase p).gs.seq = { s.gs.seq with phase := p } := rfl
@[simp] theorem State.setPhase_pipelineCrashed (p : Phase) : (s.setPhase p).gs.pipelineCrashed = s.gs.pipelineCrashed := rfl
@[simp] theorem State.setPhase_stale (p : Phase) : (s.setPhase p).gs.stale = s.gs.stale := rfl
@[simp] theorem State.setPhase_flags (p : Phase) : (s.setPhase p).gs.flags = s.gs.flags := rfl
@[simp] theorem State.setPhase_der (p : Phase) : (s.setPhase p).gs.der = s.gs.der := rfl
@[simp] theorem State.setPhase_tiles (p : Phase) : (s.setPhase p).gs.tiles = s.gs.tiles := rfl
@[simp] theorem State.setPhase_om (p : Phase) : (s.setPhase p).gs.om = s.gs.om := rfl
@[simp] theorem State.setPhase_cc (p : Phase) : (s.setPhase p).gs.cc = s.gs.cc := rfl
@[simp] theorem State.setPhase_clip (p : Phase) : (s.setPhase p).gs.clip = s.gs.clip := rfl
@[simp] theorem State.setPhase_img (p : Phase) : (s.setPhase p).gs.img = s.gs.img := rfl
@[simp] theorem State.setPhase_misc (p : Phase) : (s.setPhase p).gs.misc = s.gs.misc := rfl
@[simp] theorem State.setPhase_span (p : Phase) : (s.setPhase p).gs.span = s.gs.span := rfl
@[simp] theorem State.setPhase_slopes (p : Phase) : (s.setPhase p).gs.slopes = s.gs.slopes := rfl
@[simp] theorem State.setPhase_cvgbuf (p : Phase) : (s.setPhase p).gs.cvgbuf = s.gs.cvgbuf := rfl
@[simp] theorem State.setPhase_hid (p : Phase) : (s.setPhase p).gs.hid = s.gs.hid := rfl
@[simp] theorem State.setPhase_ram (p : Phase) : (s.setPhase p).ram = s.ram := rfl
@[simp] theorem State.setPhase_hidden (p : Phase) : (s.setPhase p).hidden = s.hidden := rfl
@[simp] theorem State.setPhase_tmem (p : Phase) : (s.setPhase p).tmem = s.tmem := rfl
@[simp] theorem State.setPhase_ramExtra (p : Phase) : (s.setPhase p).ramExtra = s.ramExtra := rfl
@[simp] theorem State.setPhase_port (p : Phase) : (s.setPhase p).port = s.port := rfl
@[simp] theorem State.setPhase_ret (p : Phase) : (s.setPhase p).ret = s.ret := rfl

@[simp] theorem State.setCycle_col (c : BitVec 1) : (s.setCycle c).gs.col = s.gs.col := rfl
@[simp] theorem State.setCycle_sca (c : BitVec 1) : (s.setCycle c).gs.sca = s.gs.sca := rfl
@[simp] theorem State.setCycle_seq (c : BitVec 1) : (s.setCycle c).gs.seq = { s.gs.seq with cycle := c } := rfl
@[simp] theorem State.setCycle_pipelineCrashed (c : BitVec 1) : (s.setCycle c).gs.pipelineCrashed = s.gs.pipelineCrashed := rfl
@[simp] theorem State.setCycle_stale (c : BitVec 1) : (s.setCycle c).gs.stale = s.gs.stale := rfl
@[simp] theorem State.setCycle_flags (c : BitVec 1) : (s.setCycle c).gs.flags = s.gs.flags := rfl
@[simp] theorem State.setCycle_der (c : BitVec 1) : (s.setCycle c).gs.der = s.gs.der := rfl
@[simp] theorem State.setCycle_tiles (c : BitVec 1) : (s.setCycle c).gs.tiles = s.gs.tiles := rfl
@[simp] theorem State.setCycle_om (c : BitVec 1) : (s.setCycle c).gs.om = s.gs.om := rfl
@[simp] theorem State.setCycle_cc (c : BitVec 1) : (s.setCycle c).gs.cc = s.gs.cc := rfl
@[simp] theorem State.setCycle_clip (c : BitVec 1) : (s.setCycle c).gs.clip = s.gs.clip := rfl
@[simp] theorem State.setCycle_img (c : BitVec 1) : (s.setCycle c).gs.img = s.gs.img := rfl
@[simp] theorem State.setCycle_misc (c : BitVec 1) : (s.setCycle c).gs.misc = s.gs.misc := rfl
@[simp] theorem State.setCycle_span (c : BitVec 1) : (s.setCycle c).gs.span = s.gs.span := rfl
@[simp] theorem State.setCycle_slopes (c : BitVec 1) : (s.setCycle c).gs.slopes = s.gs.slopes := rfl
@[simp] theorem State.setCycle_cvgbuf (c : BitVec 1) : (s.setCycle c).gs.cvgbuf = s.gs.cvgbuf := rfl
@[simp] theorem State.setCycle_hid (c : BitVec 1) : (s.setCycle c).gs.hid = s.gs.hid := rfl
@[simp] theorem State.setCycle_ram (c : BitVec 1) : (s.setCycle c).ram = s.ram := rfl
@[simp] theorem State.setCycle_hidden (c : BitVec 1) : (s.setCycle c).hidden = s.hidden := rfl
@[simp] theorem State.setCycle_tmem (c : BitVec 1) : (s.setCycle c).tmem = s.tmem := rfl
@[simp] theorem State.setCycle_ramExtra (c : BitVec 1) : (s.setCycle c).ramExtra = s.ramExtra := rfl
@[simp] theorem State.setCycle_port (c : BitVec 1) : (s.setCycle c).port = s.port := rfl
@[simp] theorem State.setCycle_ret (c : BitVec 1) : (s.setCycle c).ret = s.ret := rfl

@[simp] theorem State.raiseCrash_seq : s.raiseCrash.gs.seq = Seq.reset := rfl
@[simp] theorem State.raiseCrash_pipelineCrashed : s.raiseCrash.gs.pipelineCrashed = true := rfl
@[simp] theorem State.raiseCrash_col : s.raiseCrash.gs.col = s.gs.col := rfl
@[simp] theorem State.raiseCrash_sca : s.raiseCrash.gs.sca = s.gs.sca := rfl
@[simp] theorem State.raiseCrash_stale : s.raiseCrash.gs.stale = s.gs.stale := rfl
@[simp] theorem State.raiseCrash_flags : s.raiseCrash.gs.flags = s.gs.flags := rfl
@[simp] theorem State.raiseCrash_der : s.raiseCrash.gs.der = s.gs.der := rfl
@[simp] theorem State.raiseCrash_tiles : s.raiseCrash.gs.tiles = s.gs.tiles := rfl
@[simp] theorem State.raiseCrash_om : s.raiseCrash.gs.om = s.gs.om := rfl
@[simp] theorem State.raiseCrash_cc : s.raiseCrash.gs.cc = s.gs.cc := rfl
@[simp] theorem State.raiseCrash_clip : s.raiseCrash.gs.clip = s.gs.clip := rfl
@[simp] theorem State.raiseCrash_img : s.raiseCrash.gs.img = s.gs.img := rfl
@[simp] theorem State.raiseCrash_misc : s.raiseCrash.gs.misc = s.gs.misc := rfl
@[simp] theorem State.raiseCrash_span : s.raiseCrash.gs.span = s.gs.span := rfl
@[simp] theorem State.raiseCrash_slopes : s.raiseCrash.gs.slopes = s.gs.slopes := rfl
@[simp] theorem State.raiseCrash_cvgbuf : s.raiseCrash.gs.cvgbuf = s.gs.cvgbuf := rfl
@[simp] theorem State.raiseCrash_hid : s.raiseCrash.gs.hid = s.gs.hid := rfl
@[simp] theorem State.raiseCrash_ram : s.raiseCrash.ram = s.ram := rfl
@[simp] theorem State.raiseCrash_hidden : s.raiseCrash.hidden = s.hidden := rfl
@[simp] theorem State.raiseCrash_tmem : s.raiseCrash.tmem = s.tmem := rfl
@[simp] theorem State.raiseCrash_ramExtra : s.raiseCrash.ramExtra = s.ramExtra := rfl
@[simp] theorem State.raiseCrash_port : s.raiseCrash.port = s.port := rfl
@[simp] theorem State.raiseCrash_ret : s.raiseCrash.ret = s.ret := rfl

end Sys2Proof.Machine
end

