-- ==== Sys2Proof/Laws/Store.lean ====
section
/-! SUPPORT. The laws of the sparse stores: read after write, the canonical form, and that equal reads mean equal stores. -/

namespace Sys2Proof.Machine

variable {α : Type} [DecidableEq α] (d : α)

/-! ### Read after write -/

omit [DecidableEq α] in
theorem storeGet_drop_same (m : List (Nat × α)) (a : Nat) : storeGet d (storeDrop m a) a = d := by
  induction m with
  | nil => rfl
  | cons c m ih =>
    simp only [storeDrop]
    split
    · exact ih
    · next h => simp [storeGet, h, ih]

omit [DecidableEq α] in
theorem storeGet_drop_other (m : List (Nat × α)) {a b : Nat} (h : b ≠ a) :
    storeGet d (storeDrop m a) b = storeGet d m b := by
  induction m with
  | nil => rfl
  | cons c m ih =>
    simp only [storeDrop]
    split
    · next hc => subst hc; simp [storeGet, h.symm, ih]
    · simp [storeGet, ih]

omit [DecidableEq α] in
theorem storeGet_insert_other (m : List (Nat × α)) {a b : Nat} (v : α) (h : b ≠ a) :
    storeGet d (storeInsert m a v) b = storeGet d m b := by
  induction m with
  | nil => simp [storeInsert, storeGet, h.symm]
  | cons c m ih =>
    simp only [storeInsert]
    split <;> simp [storeGet, h.symm, ih]

omit [DecidableEq α] in
theorem storeGet_insert_same (m : List (Nat × α)) (a : Nat) (v : α) (h : ∀ c ∈ m, c.1 ≠ a) :
    storeGet d (storeInsert m a v) a = v := by
  induction m with
  | nil => simp [storeInsert, storeGet]
  | cons c m ih =>
    simp only [storeInsert]
    split
    · simp [storeGet]
    · simp [storeGet, h c (by simp), ih (fun e he => h e (by simp [he]))]

omit [DecidableEq α] in
theorem storeDrop_ne (m : List (Nat × α)) (a : Nat) : ∀ c ∈ storeDrop m a, c.1 ≠ a := by
  induction m with
  | nil => simp [storeDrop]
  | cons c m ih =>
    simp only [storeDrop]
    split
    · exact ih
    · next h => simpa [h] using ih

omit [DecidableEq α] in
theorem storeDrop_mem {m : List (Nat × α)} {a : Nat} {c : Nat × α} (h : c ∈ storeDrop m a) : c ∈ m := by
  induction m with
  | nil => simp [storeDrop] at h
  | cons e m ih =>
    simp only [storeDrop] at h
    split at h
    · simp [ih h]
    · rcases List.mem_cons.1 h with rfl | h
      · simp
      · simp [ih h]

/-- A read of the key just written gives the value written. -/
@[simp] theorem storeGet_set_same (m : List (Nat × α)) (a : Nat) (v : α) : storeGet d (storeSet d m a v) a = v := by
  unfold storeSet
  split
  · next h => rw [storeGet_drop_same, h]
  · exact storeGet_insert_same d _ _ _ (storeDrop_ne m a)

/-- A write leaves every other key alone. -/
theorem storeGet_set_other (m : List (Nat × α)) {a b : Nat} (v : α) (h : b ≠ a) :
    storeGet d (storeSet d m a v) b = storeGet d m b := by
  unfold storeSet
  split
  · exact storeGet_drop_other d m h
  · rw [storeGet_insert_other d _ _ h, storeGet_drop_other d m h]

/-- A read after a write, both cases at once. -/
theorem storeGet_set (m : List (Nat × α)) (a b : Nat) (v : α) :
    storeGet d (storeSet d m a v) b = if b = a then v else storeGet d m b := by
  split
  · next h => subst h; simp
  · next h => exact storeGet_set_other d m v h

/-! ### The canonical form -/

omit [DecidableEq α] in
theorem keysAbove_mono {lo lo' : Nat} {m : List (Nat × α)} (h : lo' ≤ lo) (hm : keysAbove lo m = true) :
    keysAbove lo' m = true := by
  cases m with
  | nil => rfl
  | cons c m =>
    simp only [keysAbove, Bool.and_eq_true, decide_eq_true_eq] at hm ⊢
    exact ⟨by omega, hm.2⟩

omit [DecidableEq α] in
theorem keysAbove_drop {lo : Nat} {m : List (Nat × α)} (a : Nat) (hm : keysAbove lo m = true) :
    keysAbove lo (storeDrop m a) = true := by
  induction m generalizing lo with
  | nil => rfl
  | cons c m ih =>
    simp only [keysAbove, Bool.and_eq_true, decide_eq_true_eq] at hm
    simp only [storeDrop]
    split
    · exact ih (keysAbove_mono (by omega) hm.2)
    · simp [keysAbove, hm.1, ih hm.2]

omit [DecidableEq α] in
theorem keysAbove_insert {lo : Nat} {m : List (Nat × α)} {a : Nat} (v : α) (ha : lo ≤ a) (hm : keysAbove lo m = true)
    (hn : ∀ c ∈ m, c.1 ≠ a) : keysAbove lo (storeInsert m a v) = true := by
  induction m generalizing lo with
  | nil => simp [storeInsert, keysAbove, ha]
  | cons c m ih =>
    have hc : c.1 ≠ a := hn c (by simp)
    simp only [keysAbove, Bool.and_eq_true, decide_eq_true_eq] at hm
    simp only [storeInsert]
    split
    · simp only [keysAbove, Bool.and_eq_true, decide_eq_true_eq]
      exact ⟨ha, by omega, hm.2⟩
    · simp only [keysAbove, Bool.and_eq_true, decide_eq_true_eq]
      exact ⟨hm.1, ih (by omega) hm.2 (fun e he => hn e (by simp [he]))⟩

omit [DecidableEq α] in
theorem storeInsert_mem {m : List (Nat × α)} {a : Nat} {v : α} {c : Nat × α} (h : c ∈ storeInsert m a v) :
    c = (a, v) ∨ c ∈ m := by
  induction m with
  | nil => simpa [storeInsert] using h
  | cons e m ih =>
    simp only [storeInsert] at h
    split at h
    · simpa using h
    · rcases List.mem_cons.1 h with rfl | h
      · simp
      · rcases ih h with h | h <;> simp [h]

/-- Every write keeps the canonical form. -/
theorem storeWf_set {m : List (Nat × α)} (a : Nat) (v : α) (h : storeWf d m = true) :
    storeWf d (storeSet d m a v) = true := by
  simp only [storeWf, Bool.and_eq_true, List.all_eq_true, decide_eq_true_eq] at h ⊢
  unfold storeSet
  split
  · exact ⟨keysAbove_drop a h.1, fun c hc => h.2 c (storeDrop_mem hc)⟩
  · next hv =>
    refine ⟨keysAbove_insert v (Nat.zero_le _) (keysAbove_drop a h.1) (storeDrop_ne m a), fun c hc => ?_⟩
    rcases storeInsert_mem hc with rfl | hc
    · exact hv
    · exact h.2 c (storeDrop_mem hc)

/-- A write at a key inside the space keeps every key inside the space. -/
theorem keysBelow_set {n : Nat} {m : List (Nat × α)} {a : Nat} (v : α) (ha : a < n) (h : keysBelow n m = true) :
    keysBelow n (storeSet d m a v) = true := by
  simp only [keysBelow, List.all_eq_true, decide_eq_true_eq] at h ⊢
  unfold storeSet
  split
  · exact fun c hc => h c (storeDrop_mem hc)
  · intro c hc
    rcases storeInsert_mem hc with rfl | hc
    · exact ha
    · exact h c (storeDrop_mem hc)

omit [DecidableEq α] in
theorem storeGet_below {lo a : Nat} {m : List (Nat × α)} (h : keysAbove lo m = true) (ha : a < lo) :
    storeGet d m a = d := by
  induction m generalizing lo with
  | nil => rfl
  | cons c m ih =>
    simp only [keysAbove, Bool.and_eq_true, decide_eq_true_eq] at h
    have : c.1 ≠ a := by omega
    simp [storeGet, this, ih h.2 (by omega)]

/-- Two stores in canonical form that read alike at every key are the same list. -/
theorem store_ext {m n : List (Nat × α)} (hm : storeWf d m = true) (hn : storeWf d n = true)
    (h : ∀ a, storeGet d m a = storeGet d n a) : m = n := by
  have key : ∀ (m n : List (Nat × α)) (lo : Nat), keysAbove lo m = true → keysAbove lo n = true →
      (∀ c ∈ m, c.2 ≠ d) → (∀ c ∈ n, c.2 ≠ d) → (∀ a, storeGet d m a = storeGet d n a) → m = n := by
    intro m
    induction m with
    | nil =>
      intro n lo _ hn _ hnd h
      cases n with
      | nil => rfl
      | cons c n =>
        have := h c.1
        simp only [storeGet, if_true] at this
        exact absurd this.symm (hnd c (by simp))
    | cons b m ih =>
      intro n lo hm hn hmd hnd h
      cases n with
      | nil =>
        have := h b.1
        simp only [storeGet, if_true] at this
        exact absurd this (hmd b (by simp))
      | cons c n =>
        simp only [keysAbove, Bool.and_eq_true, decide_eq_true_eq] at hm hn
        have hbc : b.1 = c.1 := by
          by_contra hne
          rcases Nat.lt_or_gt_of_ne hne with hlt | hlt
          · have := h b.1
            have hcb : c.1 ≠ b.1 := by omega
            simp only [storeGet, if_true, hcb, if_false] at this
            rw [storeGet_below d hn.2 (by omega)] at this
            exact hmd b (by simp) this
          · have := h c.1
            simp only [storeGet, if_true, hne, if_false] at this
            rw [storeGet_below d hm.2 (by omega)] at this
            exact hnd c (by simp) this.symm
        have hv : b.2 = c.2 := by
          have := h b.1
          simpa [storeGet, hbc] using this
        have hbe : b = c := Prod.ext hbc hv
        subst hbe
        congr 1
        refine ih n (b.1 + 1) hm.2 hn.2 (fun e he => hmd e (by simp [he])) (fun e he => hnd e (by simp [he])) ?_
        intro a
        by_cases ha : b.1 = a
        · subst ha
          rw [storeGet_below d hm.2 (by omega), storeGet_below d hn.2 (by omega)]
        · have := h a
          simpa [storeGet, ha] using this
  simp only [storeWf, Bool.and_eq_true, List.all_eq_true, decide_eq_true_eq] at hm hn
  exact key m n 0 hm.1 hn.1 hm.2 hn.2 h

end Sys2Proof.Machine
end

