-- ==== Sys2Proof/Laws/Memory.lean ====
section
/-! SUPPORT. The laws of RDRAM, the hidden store, TMEM, the span buffer and the coverage buffer: what a read gives after a
write, and that every memory operation keeps the canonical form. -/

namespace Sys2Proof.Machine

variable (s : State)

/-! ### The size of RDRAM -/

theorem State.ramBytes_eq : s.ramBytes = 65536 * 2 ^ s.ramExtra := by
  unfold State.ramBytes
  rw [Nat.pow_add]

theorem State.ramBytes_pos : 0 < s.ramBytes := by
  rw [State.ramBytes_eq]
  have : 0 < 2 ^ s.ramExtra := Nat.two_pow_pos _
  omega

theorem State.ramBytes_half : 2 * (s.ramBytes / 2) = s.ramBytes := by
  rw [State.ramBytes_eq]
  omega

theorem State.ramBytes_quarter : 4 * (s.ramBytes / 4) = s.ramBytes := by
  rw [State.ramBytes_eq]
  omega

theorem State.ramBytes_half_quarter : s.ramBytes / 2 = 2 * (s.ramBytes / 4) := by
  rw [State.ramBytes_eq]
  omega

theorem State.mask8_lt (i : Word) : s.mask8 i < s.ramBytes := Nat.mod_lt _ s.ramBytes_pos

theorem State.mask16_lt (i : Word) : s.mask16 i < s.ramBytes / 2 :=
  Nat.mod_lt _ (by have := s.ramBytes_half; have := s.ramBytes_pos; omega)

theorem State.mask32_lt (i : Word) : s.mask32 i < s.ramBytes / 4 :=
  Nat.mod_lt _ (by have := s.ramBytes_quarter; have := s.ramBytes_pos; omega)

theorem State.ramBytes_congr {s t : State} (h : t.ramExtra = s.ramExtra) : t.ramBytes = s.ramBytes := by
  unfold State.ramBytes
  rw [h]

/-! ### RDRAM: a read after a write -/

theorem bytes16_append (v : BitVec 16) : v.extractLsb' 8 8 ++ v.extractLsb' 0 8 = v := by
  ext k hk
  simp only [BitVec.getElem_append, BitVec.getElem_extractLsb']
  grind

theorem bytes32_append (v : BitVec 32) :
    (v.extractLsb' 24 8 ++ v.extractLsb' 16 8) ++ (v.extractLsb' 8 8 ++ v.extractLsb' 0 8) = v := by
  ext k hk
  simp only [BitVec.getElem_append, BitVec.getElem_extractLsb']
  grind

@[simp] theorem State.putRamByte_ramByte (a b : Nat) (v : Byte) :
    (s.putRamByte a v).ramByte b = if b = a then v else s.ramByte b := storeGet_set _ _ _ _ _

@[simp] theorem State.putRamByte_ramBytes (a : Nat) (v : Byte) : (s.putRamByte a v).ramBytes = s.ramBytes := rfl
@[simp] theorem State.putRamByte_hiddenAt (a : Nat) (v : Byte) (u : Nat) :
    (s.putRamByte a v).hiddenAt u = s.hiddenAt u := rfl

/-- The byte at `b` after `Wr8`. -/
theorem State.wr8_ramByte (i : Word) (v : Byte) (b : Nat) :
    (s.wr8 i v).ramByte b = if b = s.mask8 i then v else s.ramByte b := s.putRamByte_ramByte _ _ _

/-- The byte at `b` after `Wr16`, big-endian (R81). -/
theorem State.wr16_ramByte (i : Word) (v : BitVec 16) (b : Nat) :
    (s.wr16 i v).ramByte b =
      if b = 2 * s.mask16 i + 1 then v.extractLsb' 0 8
      else if b = 2 * s.mask16 i then v.extractLsb' 8 8 else s.ramByte b := by
  simp [State.wr16]

/-- The byte at `b` after `Wr32`, big-endian (R81). -/
theorem State.wr32_ramByte (i v : Word) (b : Nat) :
    (s.wr32 i v).ramByte b =
      if b = 4 * s.mask32 i + 3 then v.extractLsb' 0 8
      else if b = 4 * s.mask32 i + 2 then v.extractLsb' 8 8
      else if b = 4 * s.mask32 i + 1 then v.extractLsb' 16 8
      else if b = 4 * s.mask32 i then v.extractLsb' 24 8 else s.ramByte b := by
  simp [State.wr32]

@[simp] theorem State.wr8_ramBytes (i : Word) (v : Byte) : (s.wr8 i v).ramBytes = s.ramBytes := rfl
@[simp] theorem State.wr16_ramBytes (i : Word) (v : BitVec 16) : (s.wr16 i v).ramBytes = s.ramBytes := rfl
@[simp] theorem State.wr32_ramBytes (i v : Word) : (s.wr32 i v).ramBytes = s.ramBytes := rfl
@[simp] theorem State.hidWr_ramBytes (u : Nat) (h : BitVec 2) : (s.hidWr u h).ramBytes = s.ramBytes := rfl

theorem State.rd8_wr8 (i : Word) (v : Byte) : (s.wr8 i v).rd8 i = v := by
  unfold State.rd8
  rw [State.wr8_ramByte]
  exact if_pos rfl

theorem State.rd16_wr16 (i : Word) (v : BitVec 16) : (s.wr16 i v).rd16 i = v := by
  have hm : (s.wr16 i v).mask16 i = s.mask16 i := rfl
  unfold State.rd16
  rw [State.wr16_ramByte, State.wr16_ramByte, hm, if_neg (by omega), if_pos rfl, if_pos rfl]
  exact bytes16_append v

theorem State.rd32_wr32 (i v : Word) : (s.wr32 i v).rd32 i = v := by
  have hm : (s.wr32 i v).mask32 i = s.mask32 i := rfl
  unfold State.rd32
  rw [State.wr32_ramByte, State.wr32_ramByte, State.wr32_ramByte, State.wr32_ramByte, hm]
  simp only [Nat.add_left_cancel_iff, if_true]
  rw [if_neg (by omega), if_neg (by omega), if_neg (by omega)]
  simp only [Nat.reduceEqDiff, if_false]
  exact bytes32_append v

/-! ### The hidden store -/

/-- Entry `v` after `HidWr` (R86). -/
theorem State.hidWr_hiddenAt (u : Nat) (h : BitVec 2) (v : Nat) :
    (s.hidWr u h).hiddenAt v = if v = u % (s.ramBytes / 2) then h else s.hiddenAt v := storeGet_set _ _ _ _ _

@[simp] theorem State.hidWr_ramByte (u : Nat) (h : BitVec 2) (b : Nat) : (s.hidWr u h).ramByte b = s.ramByte b := rfl
@[simp] theorem State.wr8_hiddenAt (i : Word) (v : Byte) (u : Nat) : (s.wr8 i v).hiddenAt u = s.hiddenAt u := rfl
@[simp] theorem State.wr16_hiddenAt (i : Word) (v : BitVec 16) (u : Nat) : (s.wr16 i v).hiddenAt u = s.hiddenAt u := rfl
@[simp] theorem State.wr32_hiddenAt (i v : Word) (u : Nat) : (s.wr32 i v).hiddenAt u = s.hiddenAt u := rfl

theorem State.hidRd_eq (u : Word) : s.hidRd u = s.hiddenAt (s.mask16 u) := rfl

/-- What `PairWr8` leaves: the byte, and the hidden entry when the index is odd (R87). -/
theorem State.pairWr8_frame (i : Word) (v : Byte) (h : BitVec 2) :
    s.pairWr8 i v h = { s with ram := (s.pairWr8 i v h).ram, hidden := (s.pairWr8 i v h).hidden } ∧
    (∀ b, (s.pairWr8 i v h).ramByte b = if b = s.mask8 i then v else s.ramByte b) ∧
    (∀ u, (s.pairWr8 i v h).hiddenAt u =
      if i.toNat % 2 = 1 ∧ u = i.toNat / 2 % (s.ramBytes / 2) then h else s.hiddenAt u) := by
  unfold State.pairWr8
  have hodd : i.getLsbD 0 = decide (i.toNat % 2 = 1) := by simp [BitVec.getLsbD, Nat.testBit_zero]
  rw [hodd]
  by_cases ho : i.toNat % 2 = 1
  · simp only [ho, decide_true, if_true, true_and]
    refine ⟨rfl, fun b => ?_, fun u => ?_⟩
    · simp [State.wr8_ramByte]
    · rw [State.hidWr_hiddenAt]; rfl
  · simp only [ho, decide_false, Bool.false_eq_true, if_false, false_and]
    exact ⟨rfl, fun b => State.wr8_ramByte _ _ _ _, fun u => rfl⟩

/-- What `PairWr16` leaves: both bytes and the hidden entry (R87). -/
theorem State.pairWr16_frame (i : Word) (v : BitVec 16) (h : BitVec 2) :
    s.pairWr16 i v h = { s with ram := (s.pairWr16 i v h).ram, hidden := (s.pairWr16 i v h).hidden } ∧
    (∀ b, b / 2 ≠ s.mask16 i → (s.pairWr16 i v h).ramByte b = s.ramByte b) ∧ (s.pairWr16 i v h).rd16 i = v ∧
    (∀ u, (s.pairWr16 i v h).hiddenAt u = if u = s.mask16 i then h else s.hiddenAt u) := by
  refine ⟨rfl, fun b hb => ?_, s.rd16_wr16 i v, fun u => ?_⟩
  · unfold State.pairWr16
    rw [State.hidWr_ramByte, State.wr16_ramByte, if_neg (by omega), if_neg (by omega)]
  · unfold State.pairWr16
    rw [State.hidWr_hiddenAt]
    rfl

/-- What `PairWr32` leaves: four bytes and both hidden entries of the word (R87). -/
theorem State.pairWr32_frame (i v : Word) (h0 h1 : BitVec 2) :
    s.pairWr32 i v h0 h1 = { s with ram := (s.pairWr32 i v h0 h1).ram, hidden := (s.pairWr32 i v h0 h1).hidden } ∧
    (∀ b, b / 4 ≠ s.mask32 i → (s.pairWr32 i v h0 h1).ramByte b = s.ramByte b) ∧ (s.pairWr32 i v h0 h1).rd32 i = v ∧
    (∀ u, (s.pairWr32 i v h0 h1).hiddenAt u =
      if u = 2 * s.mask32 i + 1 then h1 else if u = 2 * s.mask32 i then h0 else s.hiddenAt u) := by
  refine ⟨rfl, fun b hb => ?_, s.rd32_wr32 i v, fun u => ?_⟩
  · unfold State.pairWr32
    rw [State.hidWr_ramByte, State.hidWr_ramByte, State.wr32_ramByte, if_neg (by omega), if_neg (by omega),
      if_neg (by omega), if_neg (by omega)]
  · unfold State.pairWr32
    have hq := s.ramBytes_half_quarter
    have e0 : 2 * i.toNat % (s.ramBytes / 2) = 2 * s.mask32 i := by
      rw [hq, Nat.mul_mod_mul_left]; rfl
    have e1 : (2 * i.toNat + 1) % (s.ramBytes / 2) = 2 * s.mask32 i + 1 := by
      have hlt := s.mask32_lt i
      have := Nat.div_add_mod (2 * i.toNat) (s.ramBytes / 2)
      rw [e0] at this
      rw [← this, Nat.add_assoc, Nat.mul_add_mod, Nat.mod_eq_of_lt (by omega)]
    rw [State.hidWr_hiddenAt, State.hidWr_hiddenAt]
    simp [e0, e1]

/-! ### TMEM, the span buffer, the coverage buffer -/

theorem tmemOf_map_get (f : BitVec 12 → Byte) (n a : Nat) :
    storeGet unlistedByte
      (((List.range n).map (fun a => (a, f (BitVec.ofNat 12 a)))).filter (fun c => decide (c.2 ≠ unlistedByte))) a =
      if a < n then f (BitVec.ofNat 12 a) else unlistedByte := by
  have key : ∀ l : List Nat, storeGet unlistedByte
      ((l.map (fun a => (a, f (BitVec.ofNat 12 a)))).filter (fun c => decide (c.2 ≠ unlistedByte))) a =
      if a ∈ l then f (BitVec.ofNat 12 a) else unlistedByte := by
    intro l
    induction l with
    | nil => rfl
    | cons b l ih =>
      simp only [ne_eq, decide_not] at ih
      simp only [List.map_cons, List.filter_cons]
      by_cases hb : f (BitVec.ofNat 12 b) = unlistedByte
      · by_cases hab : a = b
        · subst hab; simp [hb, ih]
        · simp [hb, ih, hab]
      · by_cases hab : a = b
        · subst hab; simp [hb, storeGet]
        · simp [hb, storeGet, ih, hab, Ne.symm hab]
  simpa using key (List.range n)

/-- The byte of TMEM at an address below 4096 after a transfer (R544). -/
theorem tmemOf_get (f : BitVec 12 → Byte) (a : BitVec 12) : storeGet unlistedByte (tmemOf f) a.toNat = f a := by
  unfold tmemOf
  rw [tmemOf_map_get, if_pos (by have := a.isLt; simp [Config.tmemBytes]; omega)]
  simp

/-- Span entry `j` after a write of entry `k` (R50). -/
theorem State.putSpan_spanAt (j k : Int) (x : Span) :
    (s.putSpan k x).spanAt j = if j = k ∧ 0 ≤ k ∧ k < Config.maxScanlines then x else s.spanAt j := by
  unfold State.putSpan
  by_cases hk : 0 ≤ k ∧ k < (Config.maxScanlines : Int)
  · rw [if_pos hk]
    unfold State.spanAt
    by_cases hj : 0 ≤ j ∧ j < (Config.maxScanlines : Int)
    · simp only [hj, and_self, if_true, State.setSpan_span, storeGet_set]
      by_cases hjk : j = k
      · subst hjk; simp [hk]
      · have : j.toNat ≠ k.toNat := by omega
        simp [hjk, this]
    · have : j ≠ k := fun h => hj (h ▸ hk)
      simp [hj, this]
  · rw [if_neg hk]
    rw [if_neg (fun h => hk h.2)]

/-- Coverage entry `p` after a write of entry `q` (R52). -/
theorem State.putCvg_cvgAt (p q : Nat) (m : Byte) :
    (s.putCvg q m).cvgAt p = if p = q ∧ q < Config.cvgbufLen then m else s.cvgAt p := by
  unfold State.putCvg
  by_cases hq : q < Config.cvgbufLen
  · rw [if_pos hq]
    unfold State.cvgAt
    by_cases hp : p < Config.cvgbufLen
    · simp only [hp, if_true, State.setCvgbuf_cvgbuf, storeGet_set]
      by_cases h : p = q <;> simp [h, hq]
    · have : p ≠ q := fun h => hp (h ▸ hq)
      simp [hp, this]
  · rw [if_neg hq, if_neg (fun h => hq h.2)]

/-! ### Every memory operation keeps the canonical form -/

theorem StoresSound.putRamByte {s : State} (h : StoresSound s) {a : Nat} (v : Byte) (ha : a < s.ramBytes) :
    StoresSound (s.putRamByte a v) :=
  { h with ram := storeWf_set _ _ _ h.ram, ramKeys := keysBelow_set _ _ ha h.ramKeys }

theorem StoresSound.wr8 {s : State} (h : StoresSound s) (i : Word) (v : Byte) : StoresSound (s.wr8 i v) :=
  h.putRamByte v (s.mask8_lt i)

theorem StoresSound.wr16 {s : State} (h : StoresSound s) (i : Word) (v : BitVec 16) : StoresSound (s.wr16 i v) := by
  have h1 := s.mask16_lt i
  have h2 := s.ramBytes_half
  exact (h.putRamByte _ (by omega)).putRamByte _ (by rw [State.putRamByte_ramBytes]; omega)

theorem StoresSound.wr32 {s : State} (h : StoresSound s) (i v : Word) : StoresSound (s.wr32 i v) := by
  have h1 := s.mask32_lt i
  have h2 := s.ramBytes_quarter
  refine (((h.putRamByte _ ?_).putRamByte _ ?_).putRamByte _ ?_).putRamByte _ ?_ <;>
    (try simp only [State.putRamByte_ramBytes]) <;> omega

theorem StoresSound.hidWr {s : State} (h : StoresSound s) (u : Nat) (x : BitVec 2) : StoresSound (s.hidWr u x) :=
  { h with
    hidden := storeWf_set _ _ _ h.hidden
    hiddenKeys := keysBelow_set _ _
      (Nat.mod_lt _ (by have := s.ramBytes_half; have := s.ramBytes_pos; omega)) h.hiddenKeys }

theorem StoresSound.pairWr16 {s : State} (h : StoresSound s) (i : Word) (v : BitVec 16) (x : BitVec 2) :
    StoresSound (s.pairWr16 i v x) := (h.wr16 i v).hidWr _ _

theorem StoresSound.pairWr8 {s : State} (h : StoresSound s) (i : Word) (v : Byte) (x : BitVec 2) :
    StoresSound (s.pairWr8 i v x) := by
  unfold State.pairWr8
  split
  · exact (h.wr8 i v).hidWr _ _
  · exact h.wr8 i v

theorem StoresSound.pairWr32 {s : State} (h : StoresSound s) (i v : Word) (x y : BitVec 2) :
    StoresSound (s.pairWr32 i v x y) := ((h.wr32 i v).hidWr _ _).hidWr _ _

theorem StoresSound.tmemWr16 {s : State} (h : StoresSound s) (i : Word) (v : BitVec 16) : StoresSound (s.tmemWr16 i v) := by
  have hm : i.toNat % (Config.tmemBytes / 2) < 2048 := Nat.mod_lt _ (by decide)
  exact { h with
    tmem := storeWf_set _ _ _ (storeWf_set _ _ _ h.tmem)
    tmemKeys := keysBelow_set _ _ (by simp [Config.tmemBytes] at hm ⊢; omega)
      (keysBelow_set _ _ (by simp [Config.tmemBytes] at hm ⊢; omega) h.tmemKeys) }

theorem StoresSound.putSpan {s : State} (h : StoresSound s) (j : Int) (x : Span) : StoresSound (s.putSpan j x) := by
  unfold State.putSpan
  split
  · next hj =>
    exact { h with span := storeWf_set _ _ _ h.span, spanKeys := keysBelow_set _ _ (by omega) h.spanKeys }
  · exact h

theorem StoresSound.putCvg {s : State} (h : StoresSound s) (p : Nat) (m : Byte) : StoresSound (s.putCvg p m) := by
  unfold State.putCvg
  split
  · next hp =>
    exact { h with cvgbuf := storeWf_set _ _ _ h.cvgbuf, cvgbufKeys := keysBelow_set _ _ hp h.cvgbufKeys }
  · exact h

theorem keysAbove_range (f : Nat → Byte) (p : Nat × Byte → Bool) (n lo : Nat) :
    keysAbove lo (((List.range' lo n).map (fun a => (a, f a))).filter p) = true := by
  induction n generalizing lo with
  | zero => rfl
  | succ n ih =>
    simp only [List.range'_succ, List.map_cons, List.filter_cons]
    split
    · simp only [keysAbove, Bool.and_eq_true, decide_eq_true_eq]
      exact ⟨Nat.le_refl _, ih (lo + 1)⟩
    · exact keysAbove_mono (by omega) (ih (lo + 1))

theorem tmemOf_wf_upto (f : BitVec 12 → Byte) (n : Nat) :
    let l := ((List.range n).map (fun a => (a, f (BitVec.ofNat 12 a)))).filter (fun c => decide (c.2 ≠ unlistedByte))
    Memory.wf l = true ∧ keysBelow n l = true := by
  constructor
  · simp only [Memory.wf, storeWf, Bool.and_eq_true, List.range_eq_range']
    refine ⟨keysAbove_range (fun a => f (BitVec.ofNat 12 a)) _ _ _, ?_⟩
    simp
  · simp only [keysBelow, List.all_eq_true, decide_eq_true_eq]
    intro c hc
    obtain ⟨a, ha, rfl⟩ := List.mem_map.1 (List.mem_filter.1 hc).1
    exact List.mem_range.1 ha

/-- The transfer of `LOAD_TILE` leaves a TMEM in canonical form. -/
theorem tmemOf_wf (f : BitVec 12 → Byte) : Memory.wf (tmemOf f) = true ∧ keysBelow Config.tmemBytes (tmemOf f) = true :=
  tmemOf_wf_upto f Config.tmemBytes

theorem StoresSound.setTmem {s : State} (h : StoresSound s) {x : List Host.Cell} (hw : Memory.wf x = true)
    (hk : keysBelow Config.tmemBytes x = true) : StoresSound (s.setTmem x) :=
  { h with tmem := hw, tmemKeys := hk }

/-- The stores of the machine right after reset are in canonical form. -/
theorem StoresSound.reset : StoresSound State.reset := by
  constructor <;> rfl

end Sys2Proof.Machine
end

