-- ==== Sys2Proof/Laws/Stage.lean ====
section
/-! SUPPORT. What a stage of a pixel may do, as one transitive relation, and that every stage of the renderers keeps it. -/

namespace Sys2Proof.Machine

/-- The ranges of R22 and R70 that the stages keep: shifters, pixel alpha, memory alpha. -/
structure Ranged (s : State) : Prop where
  blshifta : s.gs.hid.blshifta.toNat ≤ 4
  blshiftb : s.gs.hid.blshiftb.toNat ≤ 4
  pastblshifta : s.gs.hid.pastblshifta.toNat ≤ 4
  pastblshiftb : s.gs.hid.pastblshiftb.toNat ≤ 4
  pixelAlpha : s.gs.col.pixel.a.toNat ≤ 0xFF
  memoryAlpha : s.gs.col.memory.a &&& 0xE0 = s.gs.col.memory.a
  preMemoryAlpha : s.gs.col.preMemory.a &&& 0xE0 = s.gs.col.preMemory.a

/-- Everything a stage of a pixel may do: it leaves the control registers, the classification flags, the span buffer, the slopes,
TMEM and the sequencer's phase alone, raises no crash, stores only in the bytes `W` and the hidden entries whose odd byte
is in `W` (R87), and keeps the canonical forms and the ranges. -/
structure Stage (W : Nat → Prop) (s t : State) : Prop where
  control : SameControl s t
  misc : t.gs.misc = s.gs.misc
  der : t.gs.der = s.gs.der
  stale : t.gs.stale = s.gs.stale
  crashed : t.gs.pipelineCrashed = s.gs.pipelineCrashed
  phase : t.gs.seq.phase = s.gs.seq.phase
  flip : t.gs.flags.flip = s.gs.flags.flip
  span : t.gs.span = s.gs.span
  slopes : t.gs.slopes = s.gs.slopes
  tmem : t.tmem = s.tmem
  port : t.port = s.port
  ret : t.ret = s.ret
  ram : ∀ a, ¬ W a → t.ramByte a = s.ramByte a
  hidden : ∀ u, ¬ W (2 * u + 1) → t.hiddenAt u = s.hiddenAt u
  stores : StoresSound s → StoresSound t
  ranged : Ranged s → Ranged t

theorem SameControl.refl (s : State) : SameControl s s := by constructor <;> rfl

theorem SameControl.trans {s t u : State} (h : SameControl s t) (k : SameControl t u) : SameControl s u := by
  constructor <;>
    first
    | exact k.om.trans h.om | exact k.cc.trans h.cc | exact k.clip.trans h.clip | exact k.img.trans h.img
    | exact k.tiles.trans h.tiles | exact k.fillColor.trans h.fillColor | exact k.primitiveZ.trans h.primitiveZ
    | exact k.primitiveDeltaZ.trans h.primitiveDeltaZ | exact k.stride.trans h.stride
    | exact k.workerOffset.trans h.workerOffset | exact k.prim.trans h.prim | exact k.env.trans h.env
    | exact k.fog.trans h.fog | exact k.blend.trans h.blend | exact k.keyCenter.trans h.keyCenter
    | exact k.keyScale.trans h.keyScale | exact k.keyWidth.trans h.keyWidth | exact k.primLodFrac.trans h.primLodFrac
    | exact k.minLevel.trans h.minLevel | exact k.k0.trans h.k0 | exact k.k1.trans h.k1 | exact k.k2.trans h.k2
    | exact k.k3.trans h.k3 | exact k.k4.trans h.k4 | exact k.k5.trans h.k5 | exact k.ramExtra.trans h.ramExtra

variable {W : Nat → Prop} {s t u : State}

theorem Stage.refl (s : State) : Stage W s s :=
  ⟨.refl s, rfl, rfl, rfl, rfl, rfl, rfl, rfl, rfl, rfl, rfl, rfl, fun _ _ => rfl, fun _ _ => rfl, id, id⟩

theorem Stage.trans (h : Stage W s t) (k : Stage W t u) : Stage W s u where
  control := h.control.trans k.control
  misc := k.misc.trans h.misc
  der := k.der.trans h.der
  stale := k.stale.trans h.stale
  crashed := k.crashed.trans h.crashed
  phase := k.phase.trans h.phase
  flip := k.flip.trans h.flip
  span := k.span.trans h.span
  slopes := k.slopes.trans h.slopes
  tmem := k.tmem.trans h.tmem
  port := k.port.trans h.port
  ret := k.ret.trans h.ret
  ram := fun a ha => (k.ram a ha).trans (h.ram a ha)
  hidden := fun u h1 => (k.hidden u h1).trans (h.hidden u h1)
  stores := fun x => k.stores (h.stores x)
  ranged := fun x => k.ranged (h.ranged x)

theorem Stage.mono {V : Nat → Prop} (h : Stage V s t) (hv : ∀ a, V a → W a) : Stage W s t :=
  { h with
    ram := fun a ha => h.ram a (fun x => ha (hv a x))
    hidden := fun u h1 => h.hidden u (fun x => h1 (hv _ x)) }

/-! ### One lemma per setter -/

/-- The command-written colours of two records agree. -/
structure SameCommandColors (x y : ColorRegs) : Prop where
  prim : y.prim = x.prim
  env : y.env = x.env
  fog : y.fog = x.fog
  blend : y.blend = x.blend
  keyCenter : y.keyCenter = x.keyCenter
  keyScale : y.keyScale = x.keyScale
  keyWidth : y.keyWidth = x.keyWidth

theorem Stage.setCol (x : ColorRegs) (hx : SameCommandColors s.gs.col x)
    (hp : s.gs.col.pixel.a.toNat ≤ 0xFF → x.pixel.a.toNat ≤ 0xFF)
    (hm : s.gs.col.memory.a &&& 0xE0 = s.gs.col.memory.a → s.gs.col.preMemory.a &&& 0xE0 = s.gs.col.preMemory.a →
      x.memory.a &&& 0xE0 = x.memory.a ∧ x.preMemory.a &&& 0xE0 = x.preMemory.a) : Stage W s (s.setCol x) where
  control := { SameControl.refl s with
    prim := hx.prim, env := hx.env, fog := hx.fog, blend := hx.blend, keyCenter := hx.keyCenter
    keyScale := hx.keyScale, keyWidth := hx.keyWidth }
  misc := rfl
  der := rfl
  stale := rfl
  crashed := rfl
  phase := rfl
  flip := rfl
  span := rfl
  slopes := rfl
  tmem := rfl
  port := rfl
  ret := rfl
  ram := fun _ _ => rfl
  hidden := fun _ _ => rfl
  stores := fun h => { h with }
  ranged := fun h => { h with
    pixelAlpha := hp h.pixelAlpha
    memoryAlpha := (hm h.memoryAlpha h.preMemoryAlpha).1
    preMemoryAlpha := (hm h.memoryAlpha h.preMemoryAlpha).2 }

theorem Stage.setSca (x : ScalarRegs) (hx : x = { s.gs.sca with noise := x.noise, lodFrac := x.lodFrac }) :
    Stage W s (s.setSca x) where
  control := { SameControl.refl s with
    primLodFrac := (congrArg ScalarRegs.primLodFrac hx :), minLevel := (congrArg ScalarRegs.minLevel hx :)
    k0 := (congrArg ScalarRegs.k0 hx :), k1 := (congrArg ScalarRegs.k1 hx :), k2 := (congrArg ScalarRegs.k2 hx :)
    k3 := (congrArg ScalarRegs.k3 hx :), k4 := (congrArg ScalarRegs.k4 hx :), k5 := (congrArg ScalarRegs.k5 hx :) }
  misc := rfl
  der := rfl
  stale := rfl
  crashed := rfl
  phase := rfl
  flip := rfl
  span := rfl
  slopes := rfl
  tmem := rfl
  port := rfl
  ret := rfl
  ram := fun _ _ => rfl
  hidden := fun _ _ => rfl
  stores := fun h => { h with }
  ranged := fun h => { h with }

theorem Stage.setSeq (x : Seq) (hx : x.phase = s.gs.seq.phase) : Stage W s (s.setSeq x) :=
  ⟨{ SameControl.refl s with }, rfl, rfl, rfl, rfl, hx, rfl, rfl, rfl, rfl, rfl, rfl, fun _ _ => rfl, fun _ _ => rfl,
    fun h => { h with }, fun h => { h with }⟩

theorem Stage.setFlags (x : DrawFlags) (hx : x.flip = s.gs.flags.flip) : Stage W s (s.setFlags x) :=
  ⟨{ SameControl.refl s with }, rfl, rfl, rfl, rfl, rfl, hx, rfl, rfl, rfl, rfl, rfl, fun _ _ => rfl, fun _ _ => rfl,
    fun h => { h with }, fun h => { h with }⟩

theorem Stage.setHid (x : HiddenRegs) (ha : s.gs.hid.blshifta.toNat ≤ 4 → x.blshifta.toNat ≤ 4)
    (hb : s.gs.hid.blshiftb.toNat ≤ 4 → x.blshiftb.toNat ≤ 4)
    (hc : s.gs.hid.pastblshifta.toNat ≤ 4 → x.pastblshifta.toNat ≤ 4)
    (hd : s.gs.hid.pastblshiftb.toNat ≤ 4 → x.pastblshiftb.toNat ≤ 4) : Stage W s (s.setHid x) :=
  ⟨{ SameControl.refl s with }, rfl, rfl, rfl, rfl, rfl, rfl, rfl, rfl, rfl, rfl, rfl, fun _ _ => rfl, fun _ _ => rfl,
    fun h => { h with }, fun h => { h with
      blshifta := ha h.blshifta, blshiftb := hb h.blshiftb
      pastblshifta := hc h.pastblshifta, pastblshiftb := hd h.pastblshiftb }⟩

theorem Stage.putCvg (p : Nat) (m : Byte) : Stage W s (s.putCvg p m) := by
  have hs := fun h : StoresSound s => h.putCvg p m
  unfold State.putCvg at hs ⊢
  split
  · next hp =>
    rw [if_pos hp] at hs
    exact ⟨{ SameControl.refl s with }, rfl, rfl, rfl, rfl, rfl, rfl, rfl, rfl, rfl, rfl, rfl, fun _ _ => rfl,
      fun _ _ => rfl, hs, fun h => { h with }⟩
  · exact .refl s

/-! ### Stores -/

/-- A store that changes RDRAM and the hidden store only. -/
theorem Stage.of_store (he : t = { s with ram := t.ram, hidden := t.hidden })
    (hr : ∀ a, ¬ W a → t.ramByte a = s.ramByte a)
    (hh : ∀ u, ¬ W (2 * u + 1) → t.hiddenAt u = s.hiddenAt u) (hs : StoresSound s → StoresSound t) :
    Stage W s t := by
  have hgs : t.gs = s.gs := (congrArg State.gs he :)
  have hx : t.ramExtra = s.ramExtra := (congrArg State.ramExtra he :)
  exact {
    control := by constructor <;> first | rw [hgs] | exact hx
    misc := by rw [hgs]
    der := by rw [hgs]
    stale := by rw [hgs]
    crashed := by rw [hgs]
    phase := by rw [hgs]
    flip := by rw [hgs]
    span := by rw [hgs]
    slopes := by rw [hgs]
    tmem := (congrArg State.tmem he :)
    port := (congrArg State.port he :)
    ret := (congrArg State.ret he :)
    ram := hr
    hidden := hh
    stores := hs
    ranged := fun h => by
      constructor <;> rw [hgs]
      exacts [h.blshifta, h.blshiftb, h.pastblshifta, h.pastblshiftb, h.pixelAlpha, h.memoryAlpha, h.preMemoryAlpha] }

theorem Stage.wr8 (i : Word) (v : Byte) (hw : W (s.mask8 i)) : Stage W s (s.wr8 i v) :=
  .of_store rfl (fun a ha => by rw [State.wr8_ramByte, if_neg (by rintro rfl; exact ha hw)]) (fun _ _ => rfl)
    (fun h => h.wr8 i v)

/-- The byte whose hidden entry an odd byte index writes is that byte. -/
theorem odd_mod {r n : Nat} (hr : 2 * (r / 2) = r) (h0 : 0 < r) (ho : n % 2 = 1) : 2 * (n / 2 % (r / 2)) + 1 = n % r := by
  obtain ⟨k, rfl⟩ : ∃ k, r = 2 * k := ⟨r / 2, hr.symm⟩
  obtain ⟨m, rfl⟩ : ∃ m, n = 2 * m + 1 := ⟨n / 2, by omega⟩
  have e1 : (2 * m + 1) / 2 = m := by omega
  have e2 : 2 * k / 2 = k := by omega
  have h1 : m % k < k := Nat.mod_lt _ (by omega)
  have h2 : 2 * m + 1 = 2 * k * (m / k) + (2 * (m % k) + 1) := by
    have h3 : 2 * k * (m / k) = 2 * (k * (m / k)) := by ring
    have h4 := Nat.div_add_mod m k
    omega
  rw [e1, e2, h2, Nat.mul_add_mod]
  exact (Nat.mod_eq_of_lt (by omega)).symm

theorem Stage.pairWr8 (i : Word) (v : Byte) (x : BitVec 2) (hw : W (s.mask8 i)) : Stage W s (s.pairWr8 i v x) := by
  obtain ⟨he, hr, hh⟩ := s.pairWr8_frame i v x
  refine .of_store he (fun a ha => by rw [hr, if_neg (by rintro rfl; exact ha hw)]) (fun u h1 => ?_) (fun h => h.pairWr8 i v x)
  rw [hh, if_neg]
  rintro ⟨ho, rfl⟩
  apply h1
  have h2 := s.ramBytes_half
  have e : 2 * (i.toNat / 2 % (s.ramBytes / 2)) + 1 = s.mask8 i := odd_mod h2 s.ramBytes_pos ho
  rw [e]
  exact hw

theorem Stage.pairWr16 (i : Word) (v : BitVec 16) (x : BitVec 2) (hw : ∀ a, a / 2 = s.mask16 i → W a) :
    Stage W s (s.pairWr16 i v x) := by
  obtain ⟨he, hr, -, hh⟩ := s.pairWr16_frame i v x
  refine .of_store he (fun a ha => hr a (fun h => ha (hw a h))) (fun u h1 => ?_) (fun h => h.pairWr16 i v x)
  rw [hh, if_neg]
  exact fun h => h1 (hw _ (by omega))

theorem Stage.pairWr32 (i v : Word) (x y : BitVec 2) (hw : ∀ a, a / 4 = s.mask32 i → W a) :
    Stage W s (s.pairWr32 i v x y) := by
  obtain ⟨he, hr, -, hh⟩ := s.pairWr32_frame i v x y
  refine .of_store he (fun a ha => hr a (fun h => ha (hw a h))) (fun u h1 => ?_) (fun h => h.pairWr32 i v x y)
  rw [hh, if_neg (fun h => h1 (hw _ (by omega))), if_neg (fun h => h1 (hw _ (by omega)))]

theorem Stage.fbWrite (o : FbOperands) (hw : ∀ a, fbBytes s o.curpixel a → W a) : Stage W s (s.fbWrite o) := by
  unfold State.fbWrite
  unfold fbBytes at hw
  split <;> simp only [*] at hw
  · exact .wr8 _ _ (hw _ rfl)
  · exact .pairWr8 _ _ _ (hw _ rfl)
  · unfold State.fbWrite16
    simp only
    split <;> exact .pairWr16 _ _ _ hw
  · exact .pairWr32 _ _ _ _ hw

theorem Stage.fbFill (p : Word) (hw : ∀ a, fbBytes s p a → W a) : Stage W s (s.fbFill p) := by
  unfold State.fbFill
  unfold fbBytes at hw
  split <;> simp only [*] at hw
  · exact .refl s
  · exact .pairWr8 _ _ _ (hw _ rfl)
  · exact .pairWr16 _ _ _ hw
  · exact .pairWr32 _ _ _ _ hw

theorem Stage.zStore (z : Word) (sz : BitVec 18) (dz : BitVec 4) (hw : ∀ a, a / 2 = s.mask16 z → W a) :
    Stage W s (s.zStore z sz dz) := .pairWr16 _ _ _ hw

end Sys2Proof.Machine
end

