-- ==== Sys2Proof/Laws/Pixel.lean ====
section
/-! SUPPORT. Every stage of the renderers is a `Stage`, and when the texture stages complete. -/

namespace Sys2Proof.Machine

variable {W : Nat → Prop} {s t : State}

/-! ### Dither and generator -/

theorem Stage.irand (s : State) : Stage W s s.irand.1 := .setHid _ id id id id

theorem Stage.drawNoise (s : State) : Stage W s s.drawNoise := (Stage.irand s).trans (.setSca _ rfl)

theorem Stage.ditherNoise (x y : BitVec 12) (cd : BitVec 15) (ad : BitVec 3) : Stage W s (s.ditherNoise x y cd ad).1 := by
  have arm : ∀ (s : State) (d : Fin 16), Stage W s (s.ditherArm d).1 := by
    intro s d
    unfold State.ditherArm
    simp only
    split
    · exact .refl s
    · exact .refl s
    · exact .irand s
    · exact .refl s
  unfold State.ditherNoise
  split
  · exact .refl s
  · simp only
    split
    · exact (Stage.drawNoise s).trans (arm _ _)
    · exact arm _ _

/-! ### Combiner -/

theorem Stage.setCycle (c : BitVec 1) : Stage W s (s.setCycle c) := .setSeq _ rfl

theorem Stage.setCombined (c : CombinedColor) : Stage W s (s.setCombined c) :=
  .setCol _ ⟨rfl, rfl, rfl, rfl, rfl, rfl, rfl⟩ id (fun h k => ⟨h, k⟩)

theorem ditherAlpha_le (a : BitVec 9) (d : BitVec 3) : (ditherAlpha a d).toNat ≤ 0xFF := by
  unfold ditherAlpha
  simp only
  split
  · decide
  · next h =>
    have hlt := (a + d.setWidth 9).isLt
    simp only [BitVec.getLsbD, Bool.not_eq_true, Nat.testBit_eq_decide_div_mod_eq, decide_eq_false_iff_not] at h
    omega

theorem saturate255_le (v : Nat) : (saturate255 v).toNat ≤ 0xFF := by
  unfold saturate255
  split
  · decide
  · rw [BitVec.toNat_ofNat]
    exact (Nat.mod_le _ _).trans (by omega)

/-- The alpha of a finished pixel is at most 0xFF (R412 (b)). -/
theorem State.finalAlpha_le (pre : BitVec 9) (ad : BitVec 3) (cvg : BitVec 4) (temp : Nat) (key : BitVec 8) :
    (s.finalAlpha pre ad cvg temp key).toNat ≤ 0xFF := by
  unfold State.finalAlpha
  split
  · split
    · exact ditherAlpha_le _ _
    · have := key.isLt
      rw [BitVec.toNat_setWidth]
      exact (Nat.mod_le _ _).trans (by omega)
  · exact saturate255_le _

theorem Stage.finishCycle (ad : BitVec 3) (cvg : BitVec 4) (by_ : Rgb 9) : Stage W s (s.finishCycle ad cvg by_).1 :=
  .setCol _ ⟨rfl, rfl, rfl, rfl, rfl, rfl, rfl⟩ (fun _ => State.finalAlpha_le _ _ _ _ _) (fun h k => ⟨h, k⟩)

theorem Stage.combineLast (ad : BitVec 3) (cvg : BitVec 4) : Stage W s (s.combineLast ad cvg).1 :=
  (Stage.setCombined _).trans (.finishCycle _ _ _)

theorem Stage.combine1cycle (ad : BitVec 3) (cvg : BitVec 4) : Stage W s (s.combine1cycle ad cvg).1 := .combineLast ad cvg

theorem Stage.betweenCycles (s : State) : Stage W s s.betweenCycles :=
  .setCol _ ⟨rfl, rfl, rfl, rfl, rfl, rfl, rfl⟩ id (fun h k => ⟨h, k⟩)

theorem Stage.combine2cycle (ad : BitVec 3) (cvg : BitVec 4) : Stage W s (s.combine2cycle ad cvg).st :=
  (((((Stage.setCycle 0).trans (.setCombined _)).trans (.betweenCycles _)).trans (.setCycle 1))).trans (.combineLast _ _)

/-! ### Z compare -/

theorem shifter_le (a b : BitVec 4) : (shifter a b).toNat ≤ 4 := by
  revert a b
  decide +kernel

theorem Stage.shifters (dz raw : BitVec 4) : Stage W s (s.shifters dz raw) := by
  unfold State.shifters
  refine .setHid _ ?_ ?_ ?_ ?_ <;> simp only <;> split <;> split <;>
    first | exact id | exact fun _ => shifter_le _ _

theorem Stage.zcompare (o : ZOperands) : Stage W s (s.zcompare o).st := by
  unfold State.zcompare
  split
  · exact (Stage.shifters _ _).trans (.setFlags _ rfl)
  · exact (Stage.shifters _ _).trans (.setFlags _ rfl)

/-! ### Blender -/

theorem Stage.alphaCompare (a : BitVec 9) : Stage W s (s.alphaCompare a).1 := by
  unfold State.alphaCompare
  split
  · exact .refl s
  · split
    · exact .irand s
    · exact .refl s

theorem Stage.setInvPixel (c : Bool) : Stage W s (s.setInvPixel c) :=
  .setCol _ ⟨rfl, rfl, rfl, rfl, rfl, rfl, rfl⟩ id (fun h k => ⟨h, k⟩)

theorem Stage.blendLast (c r : Bool) (o : BlendOperands) : Stage W s (s.blendLast c r o).1 := by
  unfold State.blendLast
  split
  · split
    · exact .refl s
    · exact .setInvPixel c
  · exact .refl s

theorem Stage.restoreMemory (s : State) : Stage W s s.restoreMemory :=
  .setCol _ ⟨rfl, rfl, rfl, rfl, rfl, rfl, rfl⟩ id (fun _ k => ⟨k, k⟩)

theorem Stage.blendFirst (s : State) : Stage W s s.blendFirst :=
  (Stage.setInvPixel false).trans (.setCol _ ⟨rfl, rfl, rfl, rfl, rfl, rfl, rfl⟩ id (fun _ k => ⟨k, k⟩))

theorem Stage.blend1cycle (o : BlendOperands) : Stage W s (s.blend1cycle o).st := by
  unfold State.blend1cycle
  simp only
  split
  · exact (Stage.alphaCompare _).trans (.blendLast _ _ _)
  · exact .alphaCompare _

theorem Stage.blend2cycle (o : BlendOperands) (a : BitVec 9) : Stage W s (s.blend2cycle o a).st := by
  unfold State.blend2cycle
  simp only
  split
  · exact ((((Stage.alphaCompare _).trans (.setCycle 0)).trans (.blendFirst _)).trans (.setCycle 1)).trans
      (.blendLast _ _ _)
  · exact (Stage.alphaCompare _).trans (.restoreMemory _)

/-! ### Framebuffer reads -/

/-- The alpha of a memory colour is a coverage in bits 7:5 (R22, R496, R498). -/
theorem State.fbPixel_alpha (p : Word) : (s.fbPixel p).color.a &&& 0xE0 = (s.fbPixel p).color.a := by
  have key : ∀ c : BitVec 3, (c ++ 0#5 : BitVec 8) &&& 0xE0 = c ++ 0#5 := by decide
  unfold State.fbPixel
  split
  · rfl
  · exact (by decide : (0xE0 : BitVec 8) &&& 0xE0 = 0xE0)
  · unfold State.fbPixel16
    simp only
    split <;> exact key _
  · exact key _

theorem Stage.latchPixel (p : Word) (pre : Bool) : Stage W s (s.latchPixel (s.fbPixel p) pre) := by
  have h := s.fbPixel_alpha p
  unfold State.latchPixel
  split
  · exact .setCol _ ⟨rfl, rfl, rfl, rfl, rfl, rfl, rfl⟩ id (fun k _ => ⟨k, h⟩)
  · exact .setCol _ ⟨rfl, rfl, rfl, rfl, rfl, rfl, rfl⟩ id (fun _ k => ⟨h, k⟩)

theorem Stage.rgbazCorrect (o : CorrectOperands) : Stage W s (s.rgbazCorrect o).1 :=
  .setCol _ ⟨rfl, rfl, rfl, rfl, rfl, rfl, rfl⟩ id (fun h k => ⟨h, k⟩)

/-! ### Coverage -/

theorem Stage.mapCvg (f : Byte → Byte) (lo hi : Int) : Stage W s (s.mapCvg f lo hi) :=
  forUp_inv (fun _ t => Stage W s t) _ _ _ (fun _ _ _ _ h => h.trans (.putCvg _ _)) (.refl s)

theorem Stage.cvgSub (a b : Int) (k : Fin 4) (inval : Bool) (l r : BitVec 13) : Stage W s (s.cvgSub a b k inval l r) := by
  unfold State.cvgSub
  simp only
  split
  · exact .mapCvg _ _ _
  · have h : Stage W s ((s.mapCvg (fun m => m &&& ~~~(columnMask k <<< maskShift k)) a
        (if (l.toNat / 8 : Int) < b then l.toNat / 8 else b)).mapCvg
        (fun m => m &&& ~~~(columnMask k <<< maskShift k)) (if (r.toNat / 8 : Int) < a then a else r.toNat / 8) b) :=
      (Stage.mapCvg _ _ _).trans (.mapCvg _ _ _)
    split
    · exact (h.trans (.putCvg _ _)).trans (.putCvg _ _)
    · split
      · exact h.trans (.putCvg _ _)
      · exact h

theorem Stage.cvgBuild (i : Int) (flip : Bool) : Stage W s (s.cvgBuild i flip) := by
  unfold State.cvgBuild
  cases flip <;> simp only [Bool.false_eq_true, if_true, if_false] <;> split
  · exact .refl s
  · exact ((((Stage.mapCvg _ _ _).trans (.cvgSub _ _ _ _ _ _)).trans (.cvgSub _ _ _ _ _ _)).trans
      (.cvgSub _ _ _ _ _ _)).trans (.cvgSub _ _ _ _ _ _)
  · exact .refl s
  · exact ((((Stage.mapCvg _ _ _).trans (.cvgSub _ _ _ _ _ _)).trans (.cvgSub _ _ _ _ _ _)).trans
      (.cvgSub _ _ _ _ _ _)).trans (.cvgSub _ _ _ _ _ _)

/-! ### Texture -/

theorem Stage.setLodFrac (v : BitVec 9) : Stage W s (s.setLodFrac v) := .setSca _ rfl
theorem Stage.setTexel0 (c : Color 9) : Stage W s (s.setTexel0 c) :=
  .setCol _ ⟨rfl, rfl, rfl, rfl, rfl, rfl, rfl⟩ id (fun h k => ⟨h, k⟩)
theorem Stage.setTexel1 (c : Color 9) : Stage W s (s.setTexel1 c) :=
  .setCol _ ⟨rfl, rfl, rfl, rfl, rfl, rfl, rfl⟩ id (fun h k => ⟨h, k⟩)
theorem Stage.setNexttexel (c : Color 9) : Stage W s (s.setNexttexel c) :=
  .setCol _ ⟨rfl, rfl, rfl, rfl, rfl, rfl, rfl⟩ id (fun h k => ⟨h, k⟩)

theorem Stage.texel0Step1 {o : TexOperands} (h : s.texel0Step1 o = .ok t) : Stage W s t := by
  obtain ⟨c, -, hc⟩ := andThen_ok.1 h
  cases hc
  exact (Stage.setLodFrac _).trans (.setTexel0 c)

theorem Stage.texel1Step1 {o : TexOperands} (h : s.texel1Step1 o = .ok t) : Stage W s t := by
  obtain ⟨c, -, hc⟩ := andThen_ok.1 h
  cases hc
  exact .setTexel1 c

theorem Stage.texel0Step2 {l : Lod2} (h : s.texel0Step2 l = .ok t) : Stage W s t := by
  obtain ⟨c, -, hc⟩ := andThen_ok.1 h
  cases hc
  exact (Stage.setLodFrac _).trans (.setTexel0 c)

theorem Stage.texel1Step2 {l : Lod2} (h : s.texel1Step2 l = .ok t) : Stage W s t := by
  obtain ⟨c, -, hc⟩ := andThen_ok.1 h
  cases hc
  exact .setTexel1 c

theorem Stage.nexttexelStep2 {o : TexOperands} (h : s.nexttexelStep2 o = .ok t) : Stage W s t := by
  obtain ⟨c, -, hc⟩ := andThen_ok.1 h
  cases hc
  exact .setNexttexel c

theorem Stage.texture1cycle {o : TexOperands} (h : s.texture1cycle o = .ok t) : Stage W s t := by
  obtain ⟨m, hm, ht⟩ := andThen_ok.1 h
  have h1 : Stage W s m := by
    split at hm
    · cases hm; exact .refl s
    · exact .texel0Step1 hm
  split at ht
  · exact h1.trans (.texel1Step1 ht)
  · cases ht; exact h1

theorem Stage.texture2cycle {o : TexOperands} (h : s.texture2cycle o = .ok t) : Stage W s t := by
  obtain ⟨m, hm, h⟩ := andThen_ok.1 h
  obtain ⟨m', hm', ht⟩ := andThen_ok.1 h
  have h1 : Stage W s m := by
    split at hm
    · cases hm; exact .refl s
    · exact .texel0Step2 hm
  have h2 : Stage W m m' := by
    split at hm'
    · exact .texel1Step2 hm'
    · cases hm'; exact .refl m
  split at ht
  · exact (h1.trans h2).trans (.nexttexelStep2 ht)
  · cases ht; exact h1.trans h2

/-! ### When the texture stages complete (R160) -/

theorem TilesFetchable.of_stage (h : TilesFetchable s) (k : Stage W s t) : TilesFetchable t := by
  intro n
  have e : t.tile n = s.tile n := by unfold State.tile; rw [k.control.tiles]
  rw [e]
  exact h n

theorem State.fetchTile_ok (m : State) (x : Tile) (a b : BitVec 13) (h : x.notlutswitch.toNat < 20) :
    ∃ c, m.fetchTile x a b = .ok c := by
  unfold State.fetchTile
  generalize x.notlutswitch.toNat = k at h
  interval_cases k <;> exact ⟨_, rfl⟩

theorem State.fetchTile_refused (m : State) (x : Tile) (a b : BitVec 13) (h : 20 ≤ x.notlutswitch.toNat) :
    m.fetchTile x a b = .error .reservedTileFormat := by
  unfold State.fetchTile
  split <;> first | rfl | omega

theorem TilesFetchable.tmemFetch1 {m : State} (h : TilesFetchable m) (n : BitVec 3) (a b : BitVec 13) :
    ∃ c, m.tmemFetch1 n a b = .ok c := m.fetchTile_ok _ a b (h n).2

theorem State.tmemFetchTlut_ok (m : State) (n : BitVec 3) (a : BitVec 13) (sd : BitVec 11) (b : BitVec 13) (td : BitVec 11)
    (u : Bool) (h : (m.tile n).format.toNat < 5) : ∃ q, m.tmemFetchTlut n a sd b td u = .ok q := by
  unfold State.tmemFetchTlut formatCheck
  simp only [h, if_true]
  split <;> exact ⟨_, rfl⟩

theorem TilesFetchable.tmemFetchQuad {m : State} (h : TilesFetchable m) (n : BitVec 3) (a : BitVec 13) (sd : BitVec 11)
    (b : BitVec 13) (td : BitVec 11) (u : Bool) : ∃ q, m.tmemFetchQuad n a sd b td u = .ok q := by
  unfold State.tmemFetchQuad
  split
  · exact m.tmemFetchTlut_ok n a sd b td u (h n).1
  · obtain ⟨c0, h0⟩ := h.tmemFetch1 n a b
    obtain ⟨c1, h1⟩ := h.tmemFetch1 n (a + sd.signExtend 13) b
    obtain ⟨c2, h2⟩ := h.tmemFetch1 n a (b + td.signExtend 13)
    obtain ⟨c3, h3⟩ := h.tmemFetch1 n (a + sd.signExtend 13) (b + td.signExtend 13)
    simp only [h0, h1, h2, h3]
    exact ⟨_, rfl⟩

theorem TilesFetchable.texCycle {m : State} (h : TilesFetchable m) (prev : Color 9) (a b : BitVec 16) (n : BitVec 3)
    (cycle : Bool) : ∃ c, m.texCycle prev a b n cycle = .ok c := by
  unfold State.texCycle
  simp only
  split
  · split
    · next e he =>
      obtain ⟨q, hq⟩ := h.tmemFetchQuad n _ _ _ _ _
      rw [hq] at he
      cases he
    · exact ⟨_, rfl⟩
  · split
    · next e he =>
      obtain ⟨q, hq⟩ := h.tmemFetch1 n _ _
      rw [hq] at he
      cases he
    · exact ⟨_, rfl⟩

theorem TilesFetchable.texture1cycle {m : State} (h : TilesFetchable m) (o : TexOperands) :
    ∃ t, m.texture1cycle o = .ok t := by
  have h0 : ∃ t, (if m.gs.der.cycle1Mode = 0 then .ok m else m.texel0Step1 o : Except Refusal State) = .ok t := by
    split
    · exact ⟨_, rfl⟩
    · obtain ⟨c, hc⟩ := (h.of_stage (Stage.setLodFrac (W := fun _ => True) _)).texCycle _ _ _ _ _
      exact ⟨_, andThen_ok.2 ⟨c, hc, rfl⟩⟩
  obtain ⟨t, ht⟩ := h0
  have hk : Stage (fun _ => True) m t := by
    split at ht
    · cases ht; exact .refl m
    · exact .texel0Step1 ht
  have h1 : ∃ u, (if m.gs.der.cycle1Mode = 2 then t.texel1Step1 o else .ok t : Except Refusal State) = .ok u := by
    split
    · obtain ⟨c, hc⟩ := (h.of_stage hk).texCycle _ _ _ _ _
      exact ⟨_, andThen_ok.2 ⟨c, hc, rfl⟩⟩
    · exact ⟨_, rfl⟩
  obtain ⟨u, hu⟩ := h1
  refine ⟨u, andThen_ok.2 ⟨t, ht, ?_⟩⟩
  rw [hk.der]
  exact hu

theorem TilesFetchable.texture2cycle {m : State} (h : TilesFetchable m) (o : TexOperands) :
    ∃ t, m.texture2cycle o = .ok t := by
  have h0 : ∃ t, (if m.gs.der.cycle2Mode = 0 then .ok m
      else m.texel0Step2 (m.lod2cycle (m.tcDivAcc o.s o.t o.w) o) : Except Refusal State) = .ok t := by
    split
    · exact ⟨_, rfl⟩
    · obtain ⟨c, hc⟩ := (h.of_stage (Stage.setLodFrac (W := fun _ => True) _)).texCycle _ _ _ _ _
      exact ⟨_, andThen_ok.2 ⟨c, hc, rfl⟩⟩
  obtain ⟨t, ht⟩ := h0
  have hk : Stage (fun _ => True) m t := by
    split at ht
    · cases ht; exact .refl m
    · exact .texel0Step2 ht
  have h1 : ∃ u, (if 2 ≤ t.gs.der.cycle2Mode.toNat then t.texel1Step2 (m.lod2cycle (m.tcDivAcc o.s o.t o.w) o)
      else .ok t : Except Refusal State) = .ok u := by
    split
    · obtain ⟨c, hc⟩ := (h.of_stage hk).texCycle _ _ _ _ _
      exact ⟨_, andThen_ok.2 ⟨c, hc, rfl⟩⟩
    · exact ⟨_, rfl⟩
  obtain ⟨u, hu⟩ := h1
  have hl : Stage (fun _ => True) t u := by
    split at hu
    · exact .texel1Step2 hu
    · cases hu; exact .refl t
  have h2 : ∃ v, (if u.gs.der.cycle2Mode = 3 then u.nexttexelStep2 o else .ok u : Except Refusal State) = .ok v := by
    split
    · obtain ⟨c, hc⟩ := (h.of_stage (hk.trans hl)).texCycle _ _ _ _ _
      exact ⟨_, andThen_ok.2 ⟨c, hc, rfl⟩⟩
    · exact ⟨_, rfl⟩
  obtain ⟨v, hv⟩ := h2
  exact ⟨v, andThen_ok.2 ⟨t, ht, andThen_ok.2 ⟨u, hu, hv⟩⟩⟩

end Sys2Proof.Machine
end

