-- ==== Sys2Proof/Laws/Draw.lean ====
section
/-! SUPPORT. What the renderers and a whole draw may do: the loops of a scanline and of the scanlines over the stages of a
pixel, where they store, and when they complete. -/

namespace Sys2Proof.Machine

variable {W : Nat → Prop} {s t : State}

/-! ### What a stage leaves of an address -/

theorem Stage.mask16 (h : Stage W s t) (i : Word) : t.mask16 i = s.mask16 i := by
  unfold State.mask16
  rw [State.ramBytes_congr h.control.ramExtra]

theorem Stage.fbBytes (h : Stage W s t) (p : Word) (a : Nat) : fbBytes t p a ↔ fbBytes s p a := by
  unfold Machine.fbBytes State.mask8 State.mask16 State.mask32 State.fbIndex8 State.fbIndex16 State.fbIndex32
  rw [State.ramBytes_congr h.control.ramExtra, h.control.img]

theorem Stage.spanAt (h : Stage W s t) (j : Int) : t.spanAt j = s.spanAt j := by
  unfold State.spanAt
  rw [h.span]

/-! ### One pixel -/

theorem Stage.trackPixel (j : Int) (x : BitVec 12) : Stage W s (s.trackPixel j x) := .setSeq _ rfl

theorem Stage.setCvbit (b : Bool) : Stage W s (s.setFlags { s.gs.flags with cvbit := b }) := .setFlags _ rfl

theorem Stage.finishPixel (p : RenderSetup) (v : PixelVars) (sz : BitVec 18) (cvg : BitVec 4) (mc : BitVec 3)
    (blend : State → BlendOperands → Blend) (fail : State → State) (hb : ∀ m o, Stage W m (blend m o).st)
    (hf : ∀ m, Stage W m (fail m)) (hw : ∀ a, Machine.fbBytes s v.curpixel a → W a)
    (hz : ∀ a, a / 2 = s.mask16 v.zbcur → W a) : Stage W s (s.finishPixel p v sz cvg mc blend fail) := by
  unfold State.finishPixel
  simp only
  have h1 : Stage W s (s.zcompare ⟨v.zbcur, sz, p.dzpix, p.dzpixenc, cvg, mc⟩).st := .zcompare _
  split
  · have h2 := fun o => h1.trans (hb _ o)
    split
    · have h3 := fun (o : BlendOperands) (r g b : BitVec 8) (be : Bool) (c : BitVec 4) =>
        (h2 o).trans (.fbWrite ⟨v.curpixel, r, g, b, be, c, mc⟩ (fun a ha => hw a (((h2 o).fbBytes _ _).1 ha)))
      split
      · exact (h3 _ _ _ _ _ _).trans (.zStore _ _ _ (fun a ha => hz a ((h3 _ _ _ _ _ _).mask16 _ ▸ ha)))
      · exact h3 _ _ _ _ _ _
    · exact h2 _
  · exact h1.trans (hf _)

/-- The first four steps of a pixel: a stage, and nothing of the position changes. -/
theorem Stage.front {v v' : PixelVars} {p : RenderSetup} {i j length : Int} {e : CvgEntry} {z : BitVec 18}
    {texture : State → TexOperands → Except Refusal State} (ht : ∀ m o t, texture m o = .ok t → Stage W m t)
    (h : v.front p i j length texture = .ok (v', e, z)) :
    Stage W v.st v'.st ∧ v' = { v with st := v'.st, cdith := v'.cdith, adith := v'.adith } := by
  obtain ⟨m, hm, hv⟩ := andThen_ok.1 h
  cases hv
  refine ⟨?_, rfl⟩
  exact ((((Stage.trackPixel _ _).trans (.setCvbit _)).trans (ht _ _ _ hm)).trans (.rgbazCorrect _)).trans
    (.ditherNoise _ _ _ _)

/-- What a pixel body of the cycle renderers does: a stage that stores in the pixel and its depth word, then the next
position. -/
structure PixelStep (p : RenderSetup) (v v' : PixelVars) : Prop where
  stage : ∀ W : Nat → Prop, (∀ a, Machine.fbBytes v.st v.curpixel a → W a) → (∀ a, a / 2 = v.st.mask16 v.zbcur → W a) →
    Stage W v.st v'.st
  curpixel : v'.curpixel = v.curpixel + xStep p.flip
  zbcur : v'.zbcur = v.zbcur + xStep p.flip

theorem pixel1cycle_step {p : RenderSetup} {i length j : Int} {v v' : PixelVars} (h : pixel1cycle p i length j v = .ok v') :
    PixelStep p v v' := by
  obtain ⟨⟨w, e, z⟩, hf, hv⟩ := andThen_ok.1 h
  have hw := (Stage.front (W := fun _ => True) (fun _ _ _ => .texture1cycle) hf).2
  cases hv
  refine ⟨fun W h1 h2 => ?_, by rw [hw]; rfl, by rw [hw]; rfl⟩
  have k := (Stage.front (W := W) (fun _ _ _ => .texture1cycle) hf).1
  have k2 := (k.trans (.combine1cycle w.adith e.cvg)).trans (.latchPixel w.curpixel false)
  refine k2.trans (.finishPixel p w z _ _ _ _ (fun m o => .blend1cycle o) (fun m => .refl m) (fun a ha => ?_)
    (fun a ha => ?_))
  · have hc : w.curpixel = v.curpixel := by rw [hw]
    exact h1 a ((k2.fbBytes _ _).1 (hc ▸ ha))
  · have hc : w.zbcur = v.zbcur := by rw [hw]
    exact h2 a (k2.mask16 _ ▸ hc ▸ ha)

theorem pixel2cycle_step {p : RenderSetup} {i length j : Int} {v v' : PixelVars} (h : pixel2cycle p i length j v = .ok v') :
    PixelStep p v v' := by
  obtain ⟨⟨w, e, z⟩, hf, hv⟩ := andThen_ok.1 h
  have hw := (Stage.front (W := fun _ => True) (fun _ _ _ => .texture2cycle) hf).2
  cases hv
  refine ⟨fun W h1 h2 => ?_, by rw [hw]; rfl, by rw [hw]; rfl⟩
  have k := (Stage.front (W := W) (fun _ _ _ => .texture2cycle) hf).1
  have k2 := (k.trans (.combine2cycle w.adith e.cvg)).trans (.latchPixel w.curpixel true)
  refine k2.trans (.finishPixel p w z _ _ _ _ (fun m o => .blend2cycle o _) (fun m => .restoreMemory m) (fun a ha => ?_)
    (fun a ha => ?_))
  · have hc : w.curpixel = v.curpixel := by rw [hw]
    exact h1 a ((k2.fbBytes _ _).1 (hc ▸ ha))
  · have hc : w.zbcur = v.zbcur := by rw [hw]
    exact h2 a (k2.mask16 _ ▸ hc ▸ ha)

theorem PixelVars.front_ok {v : PixelVars} (p : RenderSetup) (i j length : Int)
    {texture : State → TexOperands → Except Refusal State} (hv : TilesFetchable v.st)
    (ht : ∀ m o, TilesFetchable m → ∃ t, texture m o = .ok t) : ∃ r, v.front p i j length texture = .ok r := by
  unfold PixelVars.front
  simp only
  obtain ⟨m, hm⟩ := ht ((v.st.trackPixel j v.x).setFlags { (v.st.trackPixel j v.x).gs.flags with
    cvbit := (cvlut ((v.st.trackPixel j v.x).cvgAt v.x.toNat)).cvbit }) (v.texOperands p i j length) hv
  exact ⟨_, andThen_ok.2 ⟨m, hm, rfl⟩⟩

theorem pixel1cycle_ok (p : RenderSetup) (i length j : Int) {v : PixelVars} (h : TilesFetchable v.st) :
    ∃ v', pixel1cycle p i length j v = .ok v' := by
  obtain ⟨r, hr⟩ := v.front_ok p i j length h (texture := State.texture1cycle) (fun m o hm => hm.texture1cycle o)
  exact ⟨_, andThen_ok.2 ⟨r, hr, rfl⟩⟩

theorem pixel2cycle_ok (p : RenderSetup) (i length j : Int) {v : PixelVars} (h : TilesFetchable v.st) :
    ∃ v', pixel2cycle p i length j v = .ok v' := by
  obtain ⟨r, hr⟩ := v.front_ok p i j length h (texture := State.texture2cycle) (fun m o hm => hm.texture2cycle o)
  exact ⟨_, andThen_ok.2 ⟨r, hr, rfl⟩⟩

/-! ### Lines and spans of the cycle renderers -/

/-- The bytes of the pixels and depth words of the valid spans of the scanlines `start .. stop`. -/
def cycleBytes (s : State) (start stop : Int) (flip : Bool) (a : Nat) : Prop :=
  ∃ i j : Int, start ≤ i ∧ i ≤ stop ∧ inSpan s flip i j ∧
    (fbBytes s (pixelIndex s flip i j) a ∨ zBytes s (pixelIndex s flip i j) a)

theorem pixelIndex_zero (s : State) (flip : Bool) (i : Int) : pixelIndex s flip i 0 =
    s.gs.img.fbWidth.setWidth 32 * BitVec.ofInt 32 i + (s.spanAt i).rx.setWidth 32 := by
  unfold pixelIndex
  simp

theorem pixelIndex_succ (s : State) (flip : Bool) (i j : Int) :
    pixelIndex s flip i (j + 1) = pixelIndex s flip i j + xStep flip := by
  unfold pixelIndex
  rw [BitVec.ofInt_add, BitVec.mul_add, BitVec.add_assoc, BitVec.add_assoc, BitVec.add_assoc]
  congr 3
  exact BitVec.mul_one _

/-- What one scanline of a cycle renderer does. -/
theorem renderLine_stage {pixel : RenderSetup → Int → Int → Int → PixelVars → Except Refusal PixelVars}
    (hp : ∀ p i length j v v', pixel p i length j v = .ok v' → PixelStep p v v') {s₀ : State} {tilenum : BitVec 3}
    {flip : Bool} {start stop i : Int} {l l' : LineVars} (h1 : start ≤ i) (h2 : i ≤ stop)
    (hl : Stage (cycleBytes s₀ start stop flip) s₀ l.st)
    (h : renderLine pixel (s₀.renderSetup tilenum flip) i l = .ok l') :
    Stage (cycleBytes s₀ start stop flip) s₀ l'.st := by
  have k : Stage (cycleBytes s₀ start stop flip) s₀ (l.st.setSeq { l.st.gs.seq with i := BitVec.ofInt 10 i }) :=
    hl.trans (.setSeq _ rfl)
  unfold renderLine at h
  simp only at h
  split at h
  · next hv =>
    obtain ⟨v, hv', he⟩ := andThen_ok.1 h
    cases he
    have hsp := k.spanAt i
    have key := forUpE_inv (fun j (v : PixelVars) => Stage (cycleBytes s₀ start stop flip) s₀ v.st ∧
        v.curpixel = pixelIndex s₀ flip i j ∧
        v.zbcur = (s₀.gs.img.zbAddress.setWidth 32 >>> 1) + pixelIndex s₀ flip i j) _ _ _ _ ?_ ?_ hv'
    · exact key.1
    · intro j x y hj0 hj1 hx hy
      have st := hp _ _ _ _ _ _ hy
      have hj := lt_count hj1 hj0
      refine ⟨?_, ?_, ?_⟩
      · refine hx.1.trans (st.stage _ (fun a ha => ?_) (fun a ha => ?_))
        · refine ⟨i, j, h1, h2, ⟨by rw [← hsp]; exact hv, hj0, by rw [← hsp]; exact hj⟩, .inl ?_⟩
          rw [← hx.2.1]
          exact (hx.1.fbBytes _ _).1 ha
        · refine ⟨i, j, h1, h2, ⟨by rw [← hsp]; exact hv, hj0, by rw [← hsp]; exact hj⟩, .inr ?_⟩
          unfold zBytes
          rw [← hx.2.2, ← hx.1.mask16]
          exact ha
      · rw [st.curpixel, hx.2.1, pixelIndex_succ]
        rfl
      · rw [st.zbcur, hx.2.2, pixelIndex_succ, BitVec.add_assoc]
        rfl
    · have hc : (LineVars.begin { l with st := l.st.setSeq { l.st.gs.seq with i := BitVec.ofInt 10 i } }
          (s₀.renderSetup tilenum flip) i).curpixel = pixelIndex s₀ flip i 0 := by
        rw [pixelIndex_zero, ← hsp, ← k.control.img]
        rfl
      refine ⟨k.trans (.cvgBuild _ _), hc, ?_⟩
      rw [← hc]
      rfl
  · cases h
    exact k

theorem renderLines_stage {pixel : RenderSetup → Int → Int → Int → PixelVars → Except Refusal PixelVars}
    (hp : ∀ p i length j v v', pixel p i length j v = .ok v' → PixelStep p v v') {start stop : BitVec 12}
    {tilenum : BitVec 3} {flip : Bool} (h : s.renderLines pixel start stop tilenum flip = .ok t) :
    Stage (cycleBytes s start.toInt stop.toInt flip) s t := by
  obtain ⟨l, hl, he⟩ := andThen_ok.1 h
  cases he
  refine forUpE_inv (fun _ (l : LineVars) => Stage (cycleBytes s start.toInt stop.toInt flip) s l.st) _ _ _ _ ?_
    (.refl s) hl
  intro i x y h1 h2 hx hy
  exact renderLine_stage hp h1 (lt_count h2 h1) hx hy

/-- `RENDER_1CYCLE` stores in the pixels and depth words of its valid spans, and is a stage otherwise. -/
theorem Stage.render1cycle {start stop : BitVec 12} {tilenum : BitVec 3} {flip : Bool}
    (h : s.render1cycle start stop tilenum flip = .ok t) : Stage (cycleBytes s start.toInt stop.toInt flip) s t :=
  renderLines_stage (fun _ _ _ _ _ _ => pixel1cycle_step) h

/-- `RENDER_2CYCLE` stores in the pixels and depth words of its valid spans, and is a stage otherwise. -/
theorem Stage.render2cycle {start stop : BitVec 12} {tilenum : BitVec 3} {flip : Bool}
    (h : s.render2cycle start stop tilenum flip = .ok t) : Stage (cycleBytes s start.toInt stop.toInt flip) s t :=
  renderLines_stage (fun _ _ _ _ _ _ => pixel2cycle_step) h

/-- The cycle renderers complete when every texel has a meaning. -/
theorem renderLines_ok {pixel : RenderSetup → Int → Int → Int → PixelVars → Except Refusal PixelVars}
    (hp : ∀ p i length j v v', pixel p i length j v = .ok v' → PixelStep p v v')
    (hok : ∀ p i length j v, TilesFetchable v.st → ∃ v', pixel p i length j v = .ok v') (h : TilesFetchable s)
    (start stop : BitVec 12) (tilenum : BitVec 3) (flip : Bool) : ∃ t, s.renderLines pixel start stop tilenum flip = .ok t := by
  have line : ∀ i (l : LineVars), TilesFetchable l.st →
      ∃ l', renderLine pixel (s.renderSetup tilenum flip) i l = .ok l' ∧ TilesFetchable l'.st := by
    intro i l hl
    unfold renderLine
    simp only
    split
    · obtain ⟨v, hv, hI⟩ := forUpE_ok (body := pixel (s.renderSetup tilenum flip) i (spanLength
          ((l.st.setSeq { l.st.gs.seq with i := BitVec.ofInt 10 i }).spanAt i) (s.renderSetup tilenum flip).flip))
        (fun _ (v : PixelVars) => TilesFetchable v.st)
        (count 0 (spanLength ((l.st.setSeq { l.st.gs.seq with i := BitVec.ofInt 10 i }).spanAt i)
          (s.renderSetup tilenum flip).flip)) 0
        (LineVars.begin { l with st := l.st.setSeq { l.st.gs.seq with i := BitVec.ofInt 10 i } }
          (s.renderSetup tilenum flip) i) (fun j x _ _ hx => by
          obtain ⟨y, hy⟩ := hok (s.renderSetup tilenum flip) i _ j x hx
          exact ⟨y, hy, hx.of_stage ((hp _ _ _ _ _ _ hy).stage (fun _ => True) (fun _ _ => trivial) (fun _ _ => trivial))⟩)
        ((show TilesFetchable (l.st.setSeq { l.st.gs.seq with i := BitVec.ofInt 10 i }) from hl).of_stage
          (Stage.cvgBuild (W := fun _ => True) i _))
      exact ⟨_, andThen_ok.2 ⟨v, hv, rfl⟩, hI⟩
    · exact ⟨_, rfl, hl⟩
  obtain ⟨l, hl, -⟩ := forUpE_ok (body := renderLine pixel (s.renderSetup tilenum flip))
    (fun _ (l : LineVars) => TilesFetchable l.st) (count start.toInt stop.toInt) start.toInt ⟨s, 7, 0⟩
    (fun i x _ _ hx => line i x hx) h
  exact ⟨_, andThen_ok.2 ⟨l, hl, rfl⟩⟩

theorem TilesFetchable.render1cycle (h : TilesFetchable s) (start stop : BitVec 12) (tilenum : BitVec 3) (flip : Bool) :
    ∃ t, s.render1cycle start stop tilenum flip = .ok t :=
  renderLines_ok (fun _ _ _ _ _ _ => pixel1cycle_step) (fun p i length j _ => pixel1cycle_ok p i length j) h _ _ _ _

theorem TilesFetchable.render2cycle (h : TilesFetchable s) (start stop : BitVec 12) (tilenum : BitVec 3) (flip : Bool) :
    ∃ t, s.render2cycle start stop tilenum flip = .ok t :=
  renderLines_ok (fun _ _ _ _ _ _ => pixel2cycle_step) (fun p i length j _ => pixel2cycle_ok p i length j) h _ _ _ _

/-! ### The copy renderer -/

/-- The bytes of the pixels of the valid spans of the scanlines `start .. stop`, by their x. -/
def imageBytes (s : State) (start stop : Int) (flip : Bool) (a : Nat) : Prop :=
  ∃ i j : Int, start ≤ i ∧ i ≤ stop ∧ inSpan s flip i j ∧ fbBytes s (pixelIndexAt s flip i j) a

theorem pixelX_add (s : State) (flip : Bool) (i j k : Int) :
    pixelX s flip i j + (xStep flip).setWidth 12 * BitVec.ofInt 12 k = pixelX s flip i (j + k) := by
  unfold pixelX
  rw [BitVec.ofInt_add, BitVec.mul_add, BitVec.add_assoc]

theorem copyLine_stage {s₀ : State} {inc : Attrs} {tilenum : BitVec 3} {flip : Bool} {start stop i : Int}
    (hz : s₀.gs.img.fbSize = 2) (h1 : start ≤ i) (h2 : i ≤ stop) (hs : Stage (imageBytes s₀ start stop flip) s₀ s)
    (h : copyLine inc tilenum flip i s = .ok t) : Stage (imageBytes s₀ start stop flip) s₀ t := by
  have k : Stage (imageBytes s₀ start stop flip) s₀ (s.setSeq { s.gs.seq with i := BitVec.ofInt 10 i }) :=
    hs.trans (.setSeq _ rfl)
  have hsp := k.spanAt i
  unfold copyLine at h
  simp only at h
  split at h
  · next hv =>
    obtain ⟨v, hv', he⟩ := andThen_ok.1 h
    cases he
    rw [hsp] at hv hv'
    refine (forUpE_inv (fun g (v : CopyVars) => Stage (imageBytes s₀ start stop flip) s₀ v.st ∧
        v.x = pixelX s₀ flip i (4 * g)) _ _ _ _ ?_ ⟨k, by simp [pixelX]⟩ hv').1
    intro g x y hg0 hg1 hx hy
    obtain ⟨l, -, hy⟩ := andThen_ok.1 hy
    obtain ⟨m, hm, hy⟩ := andThen_ok.1 hy
    cases hy
    refine ⟨?_, ?_⟩
    · refine forUpE_inv (fun _ m => Stage (imageBytes s₀ start stop flip) s₀ m) _ _ _ _ ?_ (hx.1.trans (.trackPixel _ _)) hm
      intro p a b hp0 hp1 ha hb
      unfold copyPixel at hb
      simp only at hb
      split at hb
      · next hin =>
        obtain ⟨c, -, hb⟩ := andThen_ok.1 hb
        split at hb
        · cases hb
          refine ha.trans (.pairWr16 _ _ _ (fun b hb => ?_))
          refine ⟨i, 4 * g + p, h1, h2, ⟨hv, by omega, hin⟩, ?_⟩
          have hf : a.gs.img.fbSize.toNat = 2 := by rw [ha.control.img, hz]; rfl
          have hb' : fbBytes a (a.gs.img.fbWidth.setWidth 32 * BitVec.ofInt 32 i +
              (x.x + (xStep flip).setWidth 12 * BitVec.ofInt 12 p).setWidth 32) b := by
            unfold fbBytes
            simp only [hf]
            exact hb
          unfold pixelIndexAt
          rw [← pixelX_add, ← hx.2, ← ha.control.img]
          exact (ha.fbBytes _ _).1 hb'
        · cases hb
          exact ha
      · cases hb
        exact ha
    · have e : (4 : BitVec 12) * (xStep flip).setWidth 12 = (xStep flip).setWidth 12 * BitVec.ofInt 12 4 := by
        cases flip <;> decide
      simp only
      rw [hx.2, e, pixelX_add]
      congr 1
      omega
  · cases h
    exact k

/-- `RENDER_COPY` on a 16 bpp framebuffer stores in the pixels of its valid spans, and is a stage otherwise. -/
theorem Stage.renderCopy {start stop : BitVec 12} {tilenum : BitVec 3} {flip : Bool} (hz : s.gs.img.fbSize = 2)
    (h : s.renderCopy start stop tilenum flip = .ok t) : Stage (imageBytes s start.toInt stop.toInt flip) s t := by
  unfold State.renderCopy at h
  rw [hz] at h
  refine forUpE_inv (fun _ t => Stage (imageBytes s start.toInt stop.toInt flip) s t) _ _ _ _ ?_ (.refl s) h
  intro i x y h1 h2 hx hy
  exact copyLine_stage hz h1 (lt_count h2 h1) hx hy

/-- What the copy renderer needs of the machine, besides the framebuffer size. -/
structure CopyReady (s : State) : Prop where
  tiles : TilesFetchable s
  lod : Om.texLodEn s.gs.om = false
  texel : Om.enTlut s.gs.om = true ∨ ∀ n : BitVec 3, (s.tile n).size = 2

theorem CopyReady.of_stage (h : CopyReady s) (k : Stage W s t) : CopyReady t where
  tiles := h.tiles.of_stage k
  lod := by rw [k.control.om]; exact h.lod
  texel := by
    rw [k.control.om]
    have e : ∀ n, t.tile n = s.tile n := fun n => by unfold State.tile; rw [k.control.tiles]
    simpa only [e] using h.texel

theorem CopyReady.copyTexel16 (h : CopyReady s) (n : BitVec 3) (a b : BitVec 16) (p : BitVec 2) :
    ∃ c, s.copyTexel16 n a b p = .ok c := by
  unfold State.copyTexel16 formatCheck
  simp only [(h.tiles n).1, if_true]
  split
  · exact ⟨_, rfl⟩
  · next he =>
    rw [if_pos ((h.texel.resolve_left he) n)]
    exact ⟨_, rfl⟩

theorem CopyReady.renderCopy (h : CopyReady s) (hz : s.gs.img.fbSize = 2) (start stop : BitVec 12) (tilenum : BitVec 3)
    (flip : Bool) : ∃ t, s.renderCopy start stop tilenum flip = .ok t := by
  unfold State.renderCopy
  rw [hz]
  have line : ∀ i (x : State), CopyReady x → ∃ y, copyLine (s.increments flip) tilenum flip i x = .ok y ∧ CopyReady y := by
    intro i x hx
    unfold copyLine
    simp only
    split
    · have pix : ∀ len j (c : BitVec 12) l p (m : State), CopyReady m →
          ∃ m', copyPixel flip i len j c l p m = .ok m' ∧ CopyReady m' := by
        intro len j c l p m hm
        unfold copyPixel
        simp only
        split
        · obtain ⟨c', hc⟩ := hm.copyTexel16 l.tile l.sss l.sst (BitVec.ofInt 2 p)
          rw [hc]
          simp only [andThen]
          split
          · exact ⟨_, rfl, hm.of_stage (Stage.pairWr16 (W := fun _ => True) _ _ _ (fun _ _ => trivial))⟩
          · exact ⟨_, rfl, hm⟩
        · exact ⟨_, rfl, hm⟩
      obtain ⟨v, hv, hI⟩ := forUpE_ok (body := copyGroup (s.increments flip) tilenum flip i
          (spanLength ((x.setSeq { x.gs.seq with i := BitVec.ofInt 10 i }).spanAt i) flip))
        (fun _ (v : CopyVars) => CopyReady v.st)
        (count 0 (spanLength ((x.setSeq { x.gs.seq with i := BitVec.ofInt 10 i }).spanAt i) flip / 4)) 0
        ⟨⟨((x.setSeq { x.gs.seq with i := BitVec.ofInt 10 i }).spanAt i).attrs.s,
          ((x.setSeq { x.gs.seq with i := BitVec.ofInt 10 i }).spanAt i).attrs.t,
          ((x.setSeq { x.gs.seq with i := BitVec.ofInt 10 i }).spanAt i).attrs.w⟩,
          ((x.setSeq { x.gs.seq with i := BitVec.ofInt 10 i }).spanAt i).rx,
          x.setSeq { x.gs.seq with i := BitVec.ofInt 10 i }⟩
        (fun g v _ _ hv => by
          have hv := hv.of_stage (Stage.trackPixel (W := fun _ => True) (4 * g) v.x)
          unfold copyGroup
          simp only
          generalize v.st.trackPixel (4 * g) v.x = m₀ at hv ⊢
          unfold State.lodCopy
          simp only [hv.lod, Bool.false_eq_true, if_false, andThen]
          obtain ⟨m, hm, hI⟩ := forUpE_ok (body := copyPixel flip i
              (spanLength ((x.setSeq { x.gs.seq with i := BitVec.ofInt 10 i }).spanAt i) flip) (4 * g) v.x
              ⟨tcClamp17 (m₀.tcDivAcc v.c.s v.c.t v.c.w).s, tcClamp17 (m₀.tcDivAcc v.c.s v.c.t v.c.w).t, tilenum⟩)
            (fun _ m => CopyReady m) 4 0 m₀ (fun p m _ _ hm => pix _ _ _ _ p m hm) hv
          rw [hm]
          exact ⟨_, rfl, hI⟩)
        (hx.of_stage (Stage.setSeq (W := fun _ => True) _ rfl))
      exact ⟨_, andThen_ok.2 ⟨v, hv, rfl⟩, hI⟩
    · exact ⟨_, rfl, hx.of_stage (Stage.setSeq (W := fun _ => True) _ rfl)⟩
  obtain ⟨y, hy, -⟩ := forUpE_ok (body := copyLine (s.increments flip) tilenum flip) (fun _ x => CopyReady x)
    (count start.toInt stop.toInt) start.toInt s (fun i x _ _ hx => line i x hx) h
  exact ⟨y, hy⟩

/-! ### The fill renderer -/

theorem fillLine_stage {s₀ : State} {flip : Bool} {start stop i : Int} (h1 : start ≤ i) (h2 : i ≤ stop)
    (hs : Stage (imageBytes s₀ start stop flip) s₀ s) : Stage (imageBytes s₀ start stop flip) s₀ (fillLine flip i s) := by
  have k : Stage (imageBytes s₀ start stop flip) s₀ (s.setSeq { s.gs.seq with i := BitVec.ofInt 10 i }) :=
    hs.trans (.setSeq _ rfl)
  have hsp := k.spanAt i
  unfold fillLine
  simp only
  rw [hsp]
  split
  · next hv =>
    refine forUp_inv (fun _ m => Stage (imageBytes s₀ start stop flip) s₀ m) _ _ _ ?_ (k.trans (.cvgBuild _ _))
    intro j m hj0 hj1 hm
    have hj := lt_count hj1 hj0
    unfold fillPixel
    simp only
    split
    · exact hm.trans (.trackPixel _ _)
    · refine (hm.trans (.trackPixel _ _)).trans (.fbFill _ (fun a ha => ?_))
      refine ⟨i, j, h1, h2, ⟨hv, hj0, hj⟩, ?_⟩
      have ha' := (hm.fbBytes _ _).1 ha
      unfold pixelIndexAt pixelX
      rw [← hm.control.img]
      exact ha'
  · exact k

/-- `RENDER_FILL` without a crash stores in the pixels of its valid spans, and is a stage otherwise. -/
theorem Stage.renderFill (start stop : BitVec 12) (flip : Bool) (hc : crashConfig 3 s = false) :
    Stage (imageBytes s start.toInt stop.toInt flip) s (s.renderFill start stop flip) := by
  have h0 : s.gs.img.fbSize ≠ 0 := by
    intro h
    simp [crashConfig, h] at hc
  have h1 : ¬ (Om.zCompareEn s.gs.om || Om.zUpdateEn s.gs.om) = true := by
    intro h
    rw [Bool.or_eq_true] at h
    rcases h with h | h <;> simp [crashConfig, h] at hc
  unfold State.renderFill
  rw [if_neg h0, if_neg h1]
  refine forUp_inv (fun _ t => Stage (imageBytes s start.toInt stop.toInt flip) s t) _ _ _ ?_ (.refl s)
  intro i x h1 h2 hx
  exact fillLine_stage h1 (lt_count h2 h1) hx

/-! ### The renderer of the cycle type, and the crash -/

/-- `RENDER_SPANS` either crashes in a configuration of R570 and changes nothing else, or is a stage. -/
theorem renderSpans_cases {start stop : BitVec 12} {tilenum : BitVec 3} {flip : Bool}
    (h : s.renderSpans start stop tilenum flip = .ok t) :
    (crashConfig (Om.cycleType s.gs.om).toNat s = true ∧ t = s.raiseCrash) ∨
    (crashConfig (Om.cycleType s.gs.om).toNat s = false ∧
      Stage (fun a => cycleBytes s start.toInt stop.toInt flip a ∨ imageBytes s start.toInt stop.toInt flip a) s t) := by
  have hlt := (Om.cycleType s.gs.om).isLt
  unfold State.renderSpans at h
  split at h
  · next hc => exact .inr ⟨by rw [hc]; rfl, (Stage.render1cycle h).mono (fun _ => .inl)⟩
  · next hc => exact .inr ⟨by rw [hc]; rfl, (Stage.render2cycle h).mono (fun _ => .inl)⟩
  · next hc =>
    by_cases h3 : s.gs.img.fbSize = 3
    · unfold State.renderCopy at h
      rw [if_pos h3] at h
      cases h
      exact .inl ⟨by rw [hc]; simp [crashConfig, h3], rfl⟩
    · by_cases h2 : s.gs.img.fbSize = 2
      · exact .inr ⟨by rw [hc]; simp [crashConfig, h2], (Stage.renderCopy h2 h).mono (fun _ => .inr)⟩
      · unfold State.renderCopy at h
        rw [if_neg h3, if_neg h2] at h
        cases h
  · next h0 h1 h2 =>
    have hc : (Om.cycleType s.gs.om).toNat = 3 := by
      generalize (Om.cycleType s.gs.om).toNat = k at *
      interval_cases k <;> simp_all
    rw [hc]
    by_cases hk : crashConfig 3 s = true
    · left
      refine ⟨hk, ?_⟩
      simp only [Except.ok.injEq] at h
      subst h
      unfold State.renderFill
      split
      · rfl
      · next h0 =>
        rw [if_pos]
        have hk' : (s.gs.img.fbSize = 0 ∨ Om.zCompareEn s.gs.om = true) ∨ Om.zUpdateEn s.gs.om = true := by
          simpa [crashConfig] using hk
        rcases hk' with (h | h) | h
        · exact absurd h h0
        · simp [h]
        · simp [h]
    · right
      simp only [Bool.not_eq_true] at hk
      simp only [Except.ok.injEq] at h
      subst h
      exact ⟨hk, (Stage.renderFill start stop flip hk).mono (fun _ => .inr)⟩

theorem Drawable.renderSpans (h : Drawable s) (start stop : BitVec 12) (tilenum : BitVec 3) (flip : Bool) :
    ∃ t, s.renderSpans start stop tilenum flip = .ok t := by
  unfold State.renderSpans
  split
  · exact h.tiles.render1cycle _ _ _ _
  · exact h.tiles.render2cycle _ _ _ _
  · next hc =>
    have h2 : Om.cycleType s.gs.om = 2 := BitVec.eq_of_toNat_eq hc
    have hz := h.copySize h2
    have hlt := s.gs.img.fbSize.isLt
    by_cases h3 : s.gs.img.fbSize = 3
    · unfold State.renderCopy
      rw [if_pos h3]
      exact ⟨_, rfl⟩
    · have e : s.gs.img.fbSize = 2 := by
        apply BitVec.eq_of_toNat_eq
        have : s.gs.img.fbSize.toNat ≠ 3 := fun h => h3 (BitVec.eq_of_toNat_eq h)
        show _ = 2
        omega
      exact CopyReady.renderCopy ⟨h.tiles, h.copyLod h2, h.copyTexel h2⟩ e _ _ _ _
  · exact ⟨_, rfl⟩

/-! ### The edge walker -/

/-- What the walk and its intake may do: the span buffer, the slopes, the flags of R32, `gs.max_level` and the sequencer's `k`. -/
structure WalkFrame (s t : State) : Prop where
  frame : t = { s with
    gs.span := t.gs.span, gs.slopes := t.gs.slopes, gs.flags := t.gs.flags, gs.seq := t.gs.seq, gs.misc := t.gs.misc }
  misc : t.gs.misc = { s.gs.misc with maxLevel := t.gs.misc.maxLevel }
  phase : t.gs.seq.phase = s.gs.seq.phase
  stores : StoresSound s → StoresSound t

theorem WalkFrame.refl (s : State) : WalkFrame s s := ⟨rfl, rfl, rfl, id⟩

theorem WalkFrame.trans {s t u : State} (h : WalkFrame s t) (k : WalkFrame t u) : WalkFrame s u := by
  obtain ⟨h1, h2, h3, h4⟩ := h
  obtain ⟨k1, k2, k3, k4⟩ := k
  refine ⟨?_, ?_, k3.trans h3, k4 ∘ h4⟩
  · rw [k1, h1]
  · rw [k2, h2]

theorem WalkFrame.setFlags (x : DrawFlags) : WalkFrame s (s.setFlags x) := ⟨rfl, rfl, rfl, fun h => { h with }⟩

theorem WalkFrame.putSpan (j : Int) (x : Span) : WalkFrame s (s.putSpan j x) := by
  have hs := fun h : StoresSound s => h.putSpan j x
  unfold State.putSpan at hs ⊢
  split
  · next hj =>
    rw [if_pos hj] at hs
    exact ⟨rfl, rfl, rfl, hs⟩
  · exact .refl s

theorem WalkFrame.store {p : WalkSetup} {k : Int} {x : Fin 4} {w : Walk} (h : WalkFrame s w.st) :
    WalkFrame s (w.store p k x).st := by
  refine h.trans ?_
  have h1 : ∀ w : Walk, WalkFrame w.st (w.startLine p).st := by
    intro w
    unfold Walk.startLine
    simp only
    split <;> exact .setFlags _
  have h2 : ∀ (j : Int) (w : Walk), WalkFrame w.st (w.subScanline p k j x).st := by
    intro j w
    unfold Walk.subScanline
    simp only [apply_ite Walk.st, ite_self]
    exact (WalkFrame.putSpan _ _).trans (.setFlags _)
  have h3 : ∀ (j : Int) (w : Walk), WalkFrame w.st (w.loadAttrs p j).st := fun j w => .putSpan _ _
  have h4 : ∀ (j : Int) (w : Walk), WalkFrame w.st (w.finalise p j).st := fun j w => .putSpan _ _
  unfold Walk.store
  simp only
  have k1 : WalkFrame w.st (if x = 0 then w.startLine p else w).st := by
    split
    · exact h1 w
    · exact .refl _
  have k2 := k1.trans (h2 (k / 4) _)
  have k3 : ∀ w' : Walk, WalkFrame w.st w'.st →
      WalkFrame w.st (if x.val = p.ldflag then w'.loadAttrs p (k / 4) else w').st := by
    intro w' hw
    split
    · exact hw.trans (h3 _ _)
    · exact hw
  split
  · exact (k3 _ k2).trans (h4 _ _)
  · exact k3 _ k2

theorem WalkFrame.walkStep (p : WalkSetup) (k : Int) (w : Walk) : WalkFrame w.st (walkStep p k w).st := by
  unfold Machine.walkStep
  simp only
  have k0 : WalkFrame w.st (w.st.setSeq { w.st.gs.seq with k := BitVec.ofInt 14 k }) :=
    ⟨rfl, rfl, rfl, fun h => { h with }⟩
  split
  · split
    · exact .store k0
    · exact .store k0
  · split <;> exact k0

/-- `EDGEWALK` (R174 to R192). -/
theorem State.edgewalk_frame (c : TriCmd) : WalkFrame s (s.edgewalk c) := by
  have h0 : WalkFrame s (s.intake c) := ⟨rfl, rfl, rfl, fun h => { h with }⟩
  unfold State.edgewalk
  simp only
  refine forUp_inv (fun _ (w : Walk) => WalkFrame s w.st) _ _ _ (fun k w _ _ hw => hw.trans (.walkStep _ k w)) ?_
  refine h0.trans ?_
  unfold walkStart
  simp only
  split
  · exact .putSpan _ _
  · exact .refl _

theorem WalkFrame.control (h : WalkFrame s t) : SameControl s t := by
  obtain ⟨hf, hm, -, -⟩ := h
  constructor <;> first
    | exact (congrArg (fun m : State => m.gs.om) hf :) | exact (congrArg (fun m : State => m.gs.cc) hf :)
    | exact (congrArg (fun m : State => m.gs.clip) hf :) | exact (congrArg (fun m : State => m.gs.img) hf :)
    | exact (congrArg (fun m : State => m.gs.tiles) hf :) | exact (congrArg (fun m => m.fillColor) hm :)
    | exact (congrArg (fun m => m.primitiveZ) hm :) | exact (congrArg (fun m => m.primitiveDeltaZ) hm :)
    | exact (congrArg (fun m => m.stride) hm :) | exact (congrArg (fun m => m.workerOffset) hm :)
    | exact (congrArg (fun m : State => m.gs.col.prim) hf :) | exact (congrArg (fun m : State => m.gs.col.env) hf :)
    | exact (congrArg (fun m : State => m.gs.col.fog) hf :) | exact (congrArg (fun m : State => m.gs.col.blend) hf :)
    | exact (congrArg (fun m : State => m.gs.col.keyCenter) hf :) | exact (congrArg (fun m : State => m.gs.col.keyScale) hf :)
    | exact (congrArg (fun m : State => m.gs.col.keyWidth) hf :) | exact (congrArg (fun m : State => m.gs.sca.primLodFrac) hf :)
    | exact (congrArg (fun m : State => m.gs.sca.minLevel) hf :) | exact (congrArg (fun m : State => m.gs.sca.k0) hf :)
    | exact (congrArg (fun m : State => m.gs.sca.k1) hf :) | exact (congrArg (fun m : State => m.gs.sca.k2) hf :)
    | exact (congrArg (fun m : State => m.gs.sca.k3) hf :) | exact (congrArg (fun m : State => m.gs.sca.k4) hf :)
    | exact (congrArg (fun m : State => m.gs.sca.k5) hf :) | exact (congrArg (fun m : State => m.ramExtra) hf :)

/-! ### A whole draw -/

/-- The start of a draw: the phase, and the classification flags when they were stale (R172). -/
theorem State.drawBegin_eq (s : State) : s.drawBegin = { s with
    gs.seq := { s.gs.seq with phase := .edgewalk }, gs.stale := false
    gs.der := if s.gs.stale then deduce s.gs.om s.gs.cc else s.gs.der } := by
  unfold State.drawBegin
  simp only
  split
  · next h => rw [State.setPhase] at h ⊢; simp only [State.setSeq_stale] at h; simp only [h, if_true]; rfl
  · next h =>
    rw [State.setPhase] at h ⊢
    simp only [State.setSeq_stale, Bool.not_eq_true] at h
    simp only [h, Bool.false_eq_true, if_false]
    rw [← h]
    rfl

/-- The two ways a draw ends (R172, R572): the crash of a configuration of R570 after the walk, or the renderer's stage. -/
theorem drawTri_cases {c : TriCmd} (h : s.drawTri c = .ok t) :
    ∃ w r : State, WalkFrame s.drawBegin w ∧ w = s.drawBegin.edgewalk c ∧ t = r.setPhase .idle ∧
      ((crashConfig (Om.cycleType s.gs.om).toNat s = true ∧ r = (w.setPhase .render).raiseCrash) ∨
       (crashConfig (Om.cycleType s.gs.om).toNat s = false ∧ ∃ W, Stage W (w.setPhase .render) r)) := by
  have hw : WalkFrame s.drawBegin (s.drawBegin.edgewalk c) := State.edgewalk_frame c
  have hb : SameControl s s.drawBegin := by rw [State.drawBegin_eq]; exact { SameControl.refl s with }
  have hc := hb.trans hw.control
  unfold State.drawTri at h
  simp only at h
  obtain ⟨r, hr, he⟩ := andThen_ok.1 h
  cases he
  refine ⟨_, r, hw, rfl, rfl, ?_⟩
  have e : ∀ n, crashConfig n ((s.drawBegin.edgewalk c).setPhase .render) = crashConfig n s := by
    intro n
    have h1 : ((s.drawBegin.edgewalk c).setPhase .render).gs.img = s.gs.img := hc.img
    have h2 : ((s.drawBegin.edgewalk c).setPhase .render).gs.om = s.gs.om := hc.om
    unfold crashConfig
    rw [h1, h2]
  have ho : ((s.drawBegin.edgewalk c).setPhase .render).gs.om = s.gs.om := hc.om
  have := renderSpans_cases hr
  rw [e, ho] at this
  rcases this with ⟨h1, h2⟩ | ⟨h1, h2⟩
  · exact .inl ⟨h1, h2⟩
  · exact .inr ⟨h1, _, h2⟩

end Sys2Proof.Machine
end

