-- ==== Sys2Proof/Laws/OnePixel.lean ====
section
/-! SUPPORT. A scanline of one pixel: the render loops run the pixel body once, the selectors by framebuffer size are the
framebuffer operations, and no stage between the coverage lookup and the depth compare touches the pixel's coverage bit. -/

namespace Sys2Proof.Machine

variable {s t : State}

/-! ### The loops on one scanline and one pixel (R212) -/

theorem count_self (i : Int) : count i i = 1 := by unfold count; omega

/-- On a valid span whose bounds meet, a cycle renderer runs its pixel body once. -/
theorem renderLines_one {pixel : RenderSetup → Int → Int → Int → PixelVars → Except Refusal PixelVars} (s : State)
    (i : BitVec 12) (tilenum : BitVec 3) (flip : Bool) (h : (s.spanAt i.toInt).validline = true)
    (hx : (s.spanAt i.toInt).lx = (s.spanAt i.toInt).rx) : s.renderLines pixel i i tilenum flip =
      andThen (pixel (s.renderSetup tilenum flip) i.toInt 0 0
        ((LineVars.mk (s.setSeq { s.gs.seq with i := BitVec.ofInt 10 i.toInt }) 7 0).begin (s.renderSetup tilenum flip) i.toInt))
        fun v => .ok v.st := by
  have hl : spanLength (s.spanAt i.toInt) flip = 0 := by unfold spanLength; rw [hx]; simp
  have hs : (s.setSeq { s.gs.seq with i := BitVec.ofInt 10 i.toInt }).spanAt i.toInt = s.spanAt i.toInt := rfl
  have hf : (s.renderSetup tilenum flip).flip = flip := rfl
  unfold State.renderLines
  simp only [count_self, forUpE, renderLine, hs, h, if_true, hf, hl]
  generalize pixel _ _ _ _ _ = r
  cases r <;> rfl

/-- A scanline with a valid span is inside the span buffer, so the sequencer's ten bits hold it. -/
theorem scanline_of_valid {i : BitVec 12} (h : (s.spanAt i.toInt).validline = true) :
    ((i.setWidth 10).toNat : Int) = i.toInt := by
  unfold State.spanAt at h
  split at h
  · next hh =>
    have h2 : i.toInt < 1024 := hh.2
    have : i.toInt = i.toNat := by
      rw [BitVec.toInt_eq_toNat_cond] at hh ⊢
      have := i.isLt
      split at hh <;> split <;> omega
    rw [BitVec.toNat_setWidth]; omega
  · cases h

/-! ### The selectors by framebuffer size (R491) -/

theorem size_cases (k : BitVec 2) : k = 0 ∨ k = 1 ∨ k = 2 ∨ k = 3 := by revert k; decide

theorem exec_selectFbRead (m : State) (p : Word) (pre : Bool) : exec (selectFbRead m.gs.img.fbSize p pre) m =
    .next ((m.latchPixel (m.fbPixel p) pre).setRet (.memcvg (m.fbPixel p).memcvg)) := by
  unfold selectFbRead State.fbPixel
  rcases size_cases m.gs.img.fbSize with h | h | h | h <;> rw [h] <;> rfl

theorem exec_selectFbWrite (m : State) (o : FbOperands) :
    exec (selectFbWrite m.gs.img.fbSize o) m = .next (m.fbWrite o) := by
  unfold selectFbWrite State.fbWrite
  rcases size_cases m.gs.img.fbSize with h | h | h | h <;> rw [h] <;> rfl

/-! ### What keeps the draw flags -/

theorem State.texture1cycle_flags {o : TexOperands} (h : s.texture1cycle o = .ok t) : t.gs.flags = s.gs.flags := by
  obtain ⟨m, hm, ht⟩ := andThen_ok.1 h
  have h1 : m.gs.flags = s.gs.flags := by
    split at hm
    · cases hm; rfl
    · obtain ⟨c, -, hc⟩ := andThen_ok.1 hm
      cases hc; rfl
  split at ht
  · obtain ⟨c, -, hc⟩ := andThen_ok.1 ht
    cases hc; exact h1
  · cases ht; exact h1

theorem State.texture2cycle_flags {o : TexOperands} (h : s.texture2cycle o = .ok t) : t.gs.flags = s.gs.flags := by
  obtain ⟨m, hm, h⟩ := andThen_ok.1 h
  obtain ⟨m', hm', ht⟩ := andThen_ok.1 h
  have h1 : m.gs.flags = s.gs.flags := by
    split at hm
    · cases hm; rfl
    · obtain ⟨c, -, hc⟩ := andThen_ok.1 hm
      cases hc; rfl
  have h2 : m'.gs.flags = m.gs.flags := by
    split at hm'
    · obtain ⟨c, -, hc⟩ := andThen_ok.1 hm'
      cases hc; rfl
    · cases hm'; rfl
  split at ht
  · obtain ⟨c, -, hc⟩ := andThen_ok.1 ht
    cases hc; exact h2.trans h1
  · cases ht; exact h2.trans h1

theorem State.ditherArm_flags (s : State) (d : Fin 16) : (s.ditherArm d).1.gs.flags = s.gs.flags := by
  unfold State.ditherArm
  simp only
  split
  · rfl
  · rfl
  · exact State.setHid_flags _ _
  · rfl

theorem State.ditherNoise_flags (s : State) (x y : BitVec 12) (c : BitVec 15) (a : BitVec 3) :
    (s.ditherNoise x y c a).1.gs.flags = s.gs.flags := by
  unfold State.ditherNoise
  split
  · rfl
  · simp only
    split
    · rw [State.ditherArm_flags]; exact (State.setSca_flags _ _).trans (State.setHid_flags _ _)
    · rw [State.ditherArm_flags]

theorem State.latchPixel_flags (s : State) (x : FbPixel) (p : Bool) : (s.latchPixel x p).gs.flags = s.gs.flags := by
  unfold State.latchPixel; split <;> rfl

theorem State.zcompare_cvbit (s : State) (o : ZOperands) : (s.zcompare o).st.gs.flags.cvbit = s.gs.flags.cvbit := by
  unfold State.zcompare State.zcompareEnabled State.zcompareDisabled State.shifters
  split <;> rfl

end Sys2Proof.Machine
end

