-- ==== Sys2Proof/Laws/PerInstr.lean ====
section
/-! SUPPORT. One statement per instruction: the first byte of its record alone selects it (R121), or it has no record because
only the sequencer issues it (R120 (b)). -/

namespace Sys2Proof.Laws.Encoding

open Sys2Proof

/-- An operation has no record, or the first byte of its record decodes to the same operation whatever follows it. -/
def Statement (i : Instr) : Prop :=
  encode i = none ∨ ∃ b bs, encode i = some (b :: bs) ∧ ∀ rest, ∃ j, decode (b :: rest) = .ok j ∧ j.ctorIdx = i.ctorIdx

theorem drawTri (cmd : TriCmd) : Statement (.drawTri cmd) := by
  obtain ⟨h1, -⟩ := triTag_bits cmd.shade cmd.texture cmd.zbuf
  exact .inr ⟨_, _, rfl, fun rest => ⟨_, decode_tri _ _ h1, rfl⟩⟩

theorem setKeyGb (widthG widthB : BitVec 12) (centerG scaleG centerB scaleB : BitVec 8) : Statement (.setKeyGb widthG widthB centerG scaleG centerB scaleB) :=
  .inr ⟨_, _, rfl, fun _ => ⟨_, rfl, rfl⟩⟩

theorem setKeyR (widthR : BitVec 12) (centerR scaleR : BitVec 8) : Statement (.setKeyR widthR centerR scaleR) :=
  .inr ⟨_, _, rfl, fun _ => ⟨_, rfl, rfl⟩⟩

theorem setConvert (k0 k1 k2 k3 k4 k5 : BitVec 9) : Statement (.setConvert k0 k1 k2 k3 k4 k5) :=
  .inr ⟨_, _, rfl, fun _ => ⟨_, rfl, rfl⟩⟩

theorem setScissor (xh yh xl yl : BitVec 12) (field odd : Bool) : Statement (.setScissor xh yh xl yl field odd) :=
  .inr ⟨_, _, rfl, fun _ => ⟨_, rfl, rfl⟩⟩

theorem setPrimDepth (z dz : BitVec 16) : Statement (.setPrimDepth z dz) :=
  .inr ⟨_, _, rfl, fun _ => ⟨_, rfl, rfl⟩⟩

theorem setOtherModes (om : BitVec 64) : Statement (.setOtherModes om) :=
  .inr ⟨_, _, rfl, fun _ => ⟨_, rfl, rfl⟩⟩

theorem setTileSize (tile : BitVec 3) (sl tl sh th : BitVec 12) : Statement (.setTileSize tile sl tl sh th) :=
  .inr ⟨_, _, rfl, fun _ => ⟨_, rfl, rfl⟩⟩

theorem loadTile (tile : BitVec 3) (sl tl sh th : BitVec 12) : Statement (.loadTile tile sl tl sh th) :=
  .inr ⟨_, _, rfl, fun _ => ⟨_, rfl, rfl⟩⟩

theorem setTile (cmd : TileCmd) : Statement (.setTile cmd) :=
  .inr ⟨_, _, rfl, fun _ => ⟨_, rfl, rfl⟩⟩

theorem setFillColor (color : BitVec 32) : Statement (.setFillColor color) :=
  .inr ⟨_, _, rfl, fun _ => ⟨_, rfl, rfl⟩⟩

theorem setFogColor (r g b a : BitVec 8) : Statement (.setFogColor r g b a) :=
  .inr ⟨_, _, rfl, fun _ => ⟨_, rfl, rfl⟩⟩

theorem setBlendColor (r g b a : BitVec 8) : Statement (.setBlendColor r g b a) :=
  .inr ⟨_, _, rfl, fun _ => ⟨_, rfl, rfl⟩⟩

theorem setPrimColor (minLevel : BitVec 5) (primLodFrac r g b a : BitVec 8) : Statement (.setPrimColor minLevel primLodFrac r g b a) :=
  .inr ⟨_, _, rfl, fun _ => ⟨_, rfl, rfl⟩⟩

theorem setEnvColor (r g b a : BitVec 8) : Statement (.setEnvColor r g b a) :=
  .inr ⟨_, _, rfl, fun _ => ⟨_, rfl, rfl⟩⟩

theorem setCombineMode (cc : BitVec 64) : Statement (.setCombineMode cc) :=
  .inr ⟨_, _, rfl, fun _ => ⟨_, rfl, rfl⟩⟩

theorem setZImage (address : BitVec 26) : Statement (.setZImage address) :=
  .inr ⟨_, _, rfl, fun _ => ⟨_, rfl, rfl⟩⟩

theorem setColorImage (format : BitVec 3) (size : BitVec 2) (width : BitVec 10) (address : BitVec 26) : Statement (.setColorImage format size width address) :=
  .inr ⟨_, _, rfl, fun _ => ⟨_, rfl, rfl⟩⟩

theorem fillRect (xl yl xh yh : BitVec 12) : Statement (.fillRect xl yl xh yh) :=
  .inr ⟨_, _, rfl, fun _ => ⟨_, rfl, rfl⟩⟩

theorem texRect (xl yl : BitVec 12) (tile : BitVec 3) (xh yh : BitVec 12) (s t dsdx dtdy : BitVec 16) : Statement (.texRect xl yl tile xh yh s t dsdx dtdy) :=
  .inr ⟨_, _, rfl, fun _ => ⟨_, rfl, rfl⟩⟩

theorem deduceDerivatives : Statement .deduceDerivatives := .inl rfl

theorem edgewalk (cmd : TriCmd) : Statement (.edgewalk cmd) := .inl rfl

theorem renderSpans (start stop : BitVec 12) (tilenum : BitVec 3) (flip : Bool) : Statement (.renderSpans start stop tilenum flip) := .inl rfl

theorem render1cycle (start stop : BitVec 12) (tilenum : BitVec 3) (flip : Bool) : Statement (.render1cycle start stop tilenum flip) := .inl rfl

theorem render2cycle (start stop : BitVec 12) (tilenum : BitVec 3) (flip : Bool) : Statement (.render2cycle start stop tilenum flip) := .inl rfl

theorem renderCopy (start stop : BitVec 12) (tilenum : BitVec 3) (flip : Bool) : Statement (.renderCopy start stop tilenum flip) := .inl rfl

theorem renderFill (start stop : BitVec 12) (flip : Bool) : Statement (.renderFill start stop flip) := .inl rfl

theorem texture1cycle (o : TexOperands) : Statement (.texture1cycle o) := .inl rfl

theorem nextCoords1cycle (o : TexOperands) : Statement (.nextCoords1cycle o) := .inl rfl

theorem texture2cycle (o : TexOperands) : Statement (.texture2cycle o) := .inl rfl

theorem rgbazCorrect (o : CorrectOperands) : Statement (.rgbazCorrect o) := .inl rfl

theorem cvgBuild (i : BitVec 10) (flip : Bool) : Statement (.cvgBuild i flip) := .inl rfl

theorem cvgLookup (m : Byte) : Statement (.cvgLookup m) := .inl rfl

theorem tcDivNonpersp (ss st sw : BitVec 16) : Statement (.tcDivNonpersp ss st sw) := .inl rfl

theorem tcDivPersp (ss st sw : BitVec 16) : Statement (.tcDivPersp ss st sw) := .inl rfl

theorem tcClamp17 (c : BitVec 19) : Statement (.tcClamp17 c) := .inl rfl

theorem tcShift (c : BitVec 16) (shift : BitVec 4) (sh : BitVec 12) : Statement (.tcShift c shift sh) := .inl rfl

theorem tcClamp (c : BitVec 17) (frac : BitVec 5) (max clampen : Bool) (clampdiff : BitVec 10) : Statement (.tcClamp c frac max clampen clampdiff) := .inl rfl

theorem tcMask (c : BitVec 12) (mask : BitVec 4) (mirror : Bool) (maskclamped : BitVec 4) : Statement (.tcMask c mask mirror maskclamped) := .inl rfl

theorem tcMaskCoupled (c : BitVec 12) (mask : BitVec 4) (mirror : Bool) (maskclamped : BitVec 4) : Statement (.tcMaskCoupled c mask mirror maskclamped) := .inl rfl

theorem texCycle (prev : Color 9) (sss sst : BitVec 16) (tilenum : BitVec 3) (cycle : Bool) : Statement (.texCycle prev sss sst tilenum cycle) := .inl rfl

theorem armPoint (q0 : Color 9) : Statement (.armPoint q0) := .inl rfl

theorem armPointConvert (prev : Color 9) : Statement (.armPointConvert prev) := .inl rfl

theorem armLerp (q : Quad) (sfrac tfrac : BitVec 5) (s3odd yuv : Bool) : Statement (.armLerp q sfrac tfrac s3odd yuv) := .inl rfl

theorem armLerpConvert (prev : Color 9) (q : Quad) (upper : Bool) : Statement (.armLerpConvert prev q upper) := .inl rfl

theorem armYuv1 (prev q0 : Color 9) (convert : Bool) : Statement (.armYuv1 prev q0 convert) := .inl rfl

theorem armYuv4 (prev : Color 9) (q : Quad) (convert upper upperRg : Bool) : Statement (.armYuv4 prev q convert upper upperRg) := .inl rfl

theorem lod1cycle (sss sst : BitVec 19) (o : TexOperands) : Statement (.lod1cycle sss sst o) := .inl rfl

theorem lod2cycle (sss sst : BitVec 19) (o : TexOperands) : Statement (.lod2cycle sss sst o) := .inl rfl

theorem lodCopy (sss sst : BitVec 19) (tilenum : BitVec 3) : Statement (.lodCopy sss sst tilenum) := .inl rfl

theorem tmemFetch1 (tilenum : BitVec 3) (s t : BitVec 13) : Statement (.tmemFetch1 tilenum s t) := .inl rfl

theorem tmemFetchQuad (tilenum : BitVec 3) (s : BitVec 13) (sdiff : BitVec 11) (t : BitVec 13) (tdiff : BitVec 11) (upper : Bool) : Statement (.tmemFetchQuad tilenum s sdiff t tdiff upper) := .inl rfl

theorem tmemFetchRgba4 (tilenum : BitVec 3) (s t : BitVec 13) : Statement (.tmemFetchRgba4 tilenum s t) := .inl rfl

theorem tmemFetchRgba8 (tilenum : BitVec 3) (s t : BitVec 13) : Statement (.tmemFetchRgba8 tilenum s t) := .inl rfl

theorem tmemFetchRgba16 (tilenum : BitVec 3) (s t : BitVec 13) : Statement (.tmemFetchRgba16 tilenum s t) := .inl rfl

theorem tmemFetchRgba32 (tilenum : BitVec 3) (s t : BitVec 13) : Statement (.tmemFetchRgba32 tilenum s t) := .inl rfl

theorem tmemFetchYuv4 (tilenum : BitVec 3) (s t : BitVec 13) : Statement (.tmemFetchYuv4 tilenum s t) := .inl rfl

theorem tmemFetchYuv8 (tilenum : BitVec 3) (s t : BitVec 13) : Statement (.tmemFetchYuv8 tilenum s t) := .inl rfl

theorem tmemFetchYuv16 (tilenum : BitVec 3) (s t : BitVec 13) : Statement (.tmemFetchYuv16 tilenum s t) := .inl rfl

theorem tmemFetchYuv32 (tilenum : BitVec 3) (s t : BitVec 13) : Statement (.tmemFetchYuv32 tilenum s t) := .inl rfl

theorem tmemFetchCi4 (tilenum : BitVec 3) (s t : BitVec 13) : Statement (.tmemFetchCi4 tilenum s t) := .inl rfl

theorem tmemFetchCi8 (tilenum : BitVec 3) (s t : BitVec 13) : Statement (.tmemFetchCi8 tilenum s t) := .inl rfl

theorem tmemFetchCi16 (tilenum : BitVec 3) (s t : BitVec 13) : Statement (.tmemFetchCi16 tilenum s t) := .inl rfl

theorem tmemFetchCi32 (tilenum : BitVec 3) (s t : BitVec 13) : Statement (.tmemFetchCi32 tilenum s t) := .inl rfl

theorem tmemFetchIa4 (tilenum : BitVec 3) (s t : BitVec 13) : Statement (.tmemFetchIa4 tilenum s t) := .inl rfl

theorem tmemFetchIa8 (tilenum : BitVec 3) (s t : BitVec 13) : Statement (.tmemFetchIa8 tilenum s t) := .inl rfl

theorem tmemFetchIa16 (tilenum : BitVec 3) (s t : BitVec 13) : Statement (.tmemFetchIa16 tilenum s t) := .inl rfl

theorem tmemFetchIa32 (tilenum : BitVec 3) (s t : BitVec 13) : Statement (.tmemFetchIa32 tilenum s t) := .inl rfl

theorem tmemFetchI4 (tilenum : BitVec 3) (s t : BitVec 13) : Statement (.tmemFetchI4 tilenum s t) := .inl rfl

theorem tmemFetchI8 (tilenum : BitVec 3) (s t : BitVec 13) : Statement (.tmemFetchI8 tilenum s t) := .inl rfl

theorem tmemFetchI16 (tilenum : BitVec 3) (s t : BitVec 13) : Statement (.tmemFetchI16 tilenum s t) := .inl rfl

theorem tmemFetchI32 (tilenum : BitVec 3) (s t : BitVec 13) : Statement (.tmemFetchI32 tilenum s t) := .inl rfl

theorem tmemFetchTlut (tilenum : BitVec 3) (s : BitVec 13) (sdiff : BitVec 11) (t : BitVec 13) (tdiff : BitVec 11) (upper : Bool) : Statement (.tmemFetchTlut tilenum s sdiff t tdiff upper) := .inl rfl

theorem copyTexel16 (tilenum : BitVec 3) (sss sst : BitVec 16) (p : BitVec 2) : Statement (.copyTexel16 tilenum sss sst p) := .inl rfl

theorem combineEqRgb (a b c d : BitVec 9) (cZero : Bool) : Statement (.combineEqRgb a b c d cZero) := .inl rfl

theorem combineEqAlpha (a b c d : BitVec 9) (cZero : Bool) : Statement (.combineEqAlpha a b c d cZero) := .inl rfl

theorem combine1cycle (adith : BitVec 3) (cvg : BitVec 4) : Statement (.combine1cycle adith cvg) := .inl rfl

theorem combine2cycle (adith : BitVec 3) (cvg : BitVec 4) : Statement (.combine2cycle adith cvg) := .inl rfl

theorem finishCycle (adith : BitVec 3) (cvg : BitVec 4) (bypass : Rgb 9) : Statement (.finishCycle adith cvg bypass) := .inl rfl

theorem chromaKey (col : Rgb 17) : Statement (.chromaKey col) := .inl rfl

theorem blendEq (c : Bool) : Statement (.blendEq c) := .inl rfl

theorem blendEqC02 : Statement .blendEqC02 := .inl rfl

theorem alphaCompare (alpha : BitVec 9) : Statement (.alphaCompare alpha) := .inl rfl

theorem blend1cycle (o : BlendOperands) : Statement (.blend1cycle o) := .inl rfl

theorem blend2cycle (o : BlendOperands) (acalpha : BitVec 9) : Statement (.blend2cycle o acalpha) := .inl rfl

theorem zLoad (zbcur : Word) : Statement (.zLoad zbcur) := .inl rfl

theorem zcompare (o : ZOperands) : Statement (.zcompare o) := .inl rfl

theorem zcompareDisabled (o : ZOperands) : Statement (.zcompareDisabled o) := .inl rfl

theorem shifters (dzpixenc raw : BitVec 4) : Statement (.shifters dzpixenc raw) := .inl rfl

theorem zcompareOpaque (x : ZTerms) : Statement (.zcompareOpaque x) := .inl rfl

theorem zcompareInterpenetrating (x : ZTerms) (oz sz : BitVec 18) (dznotshift : BitVec 16) (cvg : BitVec 4) : Statement (.zcompareInterpenetrating x oz sz dznotshift cvg) := .inl rfl

theorem zcompareTransparent (x : ZTerms) : Statement (.zcompareTransparent x) := .inl rfl

theorem zcompareDecal (x : ZTerms) : Statement (.zcompareDecal x) := .inl rfl

theorem zStore (zbcur : Word) (sz : BitVec 18) (dzpixenc : BitVec 4) : Statement (.zStore zbcur sz dzpixenc) := .inl rfl

theorem irand : Statement .irand := .inl rfl

theorem ditherNoise (x y : BitVec 12) (cdith : BitVec 15) (adith : BitVec 3) : Statement (.ditherNoise x y cdith adith) := .inl rfl

theorem rgbDither (r g b : BitVec 8) (dith : BitVec 15) : Statement (.rgbDither r g b dith) := .inl rfl

theorem fbRead4 (curpixel : Word) (pre : Bool) : Statement (.fbRead4 curpixel pre) := .inl rfl

theorem fbRead8 (curpixel : Word) (pre : Bool) : Statement (.fbRead8 curpixel pre) := .inl rfl

theorem fbRead16 (curpixel : Word) (pre : Bool) : Statement (.fbRead16 curpixel pre) := .inl rfl

theorem fbRead32 (curpixel : Word) (pre : Bool) : Statement (.fbRead32 curpixel pre) := .inl rfl

theorem finalCvg (blendEn : Bool) (cvg : BitVec 4) (memcvg : BitVec 3) : Statement (.finalCvg blendEn cvg memcvg) := .inl rfl

theorem fbWrite4 (o : FbOperands) : Statement (.fbWrite4 o) := .inl rfl

theorem fbWrite8 (o : FbOperands) : Statement (.fbWrite8 o) := .inl rfl

theorem fbWrite16 (o : FbOperands) : Statement (.fbWrite16 o) := .inl rfl

theorem fbWrite32 (o : FbOperands) : Statement (.fbWrite32 o) := .inl rfl

theorem fbFill8 (curpixel : Word) : Statement (.fbFill8 curpixel) := .inl rfl

theorem fbFill16 (curpixel : Word) : Statement (.fbFill16 curpixel) := .inl rfl

theorem fbFill32 (curpixel : Word) : Statement (.fbFill32 curpixel) := .inl rfl

theorem recomputeTile (tile : BitVec 3) : Statement (.recomputeTile tile) := .inl rfl

end Sys2Proof.Laws.Encoding
end

