-- ==== Sys2Proof/Laws/Walk.lean ====
section
/-! SUPPORT. The edge walk in closed form: where its edges and attributes stand at each quarter-scanline, and its four
iterations per scanline. -/

namespace Sys2Proof.Machine

/-! ### The stored part leaves the edges and the attributes -/

/-- What `Walk.store` does not touch. -/
structure SameEdges (w v : Walk) : Prop where
  xleft : v.xleft = w.xleft
  incLeft : v.incLeft = w.incLeft
  xright : v.xright = w.xright
  attrs : v.attrs = w.attrs

theorem SameEdges.refl (w : Walk) : SameEdges w w := ⟨rfl, rfl, rfl, rfl⟩

theorem SameEdges.trans {w v u : Walk} (h : SameEdges w v) (k : SameEdges v u) : SameEdges w u :=
  ⟨k.xleft.trans h.xleft, k.incLeft.trans h.incLeft, k.xright.trans h.xright, k.attrs.trans h.attrs⟩

theorem SameEdges.startLine (p : WalkSetup) (w : Walk) : SameEdges w (w.startLine p) := by
  unfold Walk.startLine
  simp only
  split <;> exact ⟨rfl, rfl, rfl, rfl⟩

theorem SameEdges.subScanline (p : WalkSetup) (k j : Int) (x : Fin 4) (w : Walk) : SameEdges w (w.subScanline p k j x) := by
  unfold Walk.subScanline
  simp only
  split <;> split <;> exact ⟨rfl, rfl, rfl, rfl⟩

theorem SameEdges.store (p : WalkSetup) (k : Int) (x : Fin 4) (w : Walk) : SameEdges w (w.store p k x) := by
  have h1 : SameEdges w (if x = 0 then w.startLine p else w) := by
    split
    · exact .startLine p w
    · exact .refl w
  have h2 := h1.trans (.subScanline p k (k / 4) x _)
  have h3 : ∀ v : Walk, SameEdges w v → SameEdges w (if x.val = p.ldflag then v.loadAttrs p (k / 4) else v) := by
    intro v hv
    split
    · exact hv.trans ⟨rfl, rfl, rfl, rfl⟩
    · exact hv
  unfold Walk.store
  simp only
  split
  · exact (h3 _ h2).trans ⟨rfl, rfl, rfl, rfl⟩
  · exact h3 _ h2

/-! ### The edges in closed form (R180, R192) -/

/-- `xright` at quarter-scanline `k`. -/
def rightAt (c : TriCmd) (k : Int) : Word :=
  edgePos c.xh + BitVec.ofInt 32 (k - quarterFloor c.yh.toInt) * edgeInc c.dxhdy

/-- `xleft` at quarter-scanline `k`: the M edge, and from `ym` on, when the walk passes it, the L edge. -/
def leftAt (c : TriCmd) (k : Int) : Word :=
  if quarterFloor c.yh.toInt ≤ c.ym.toInt ∧ c.ym.toInt ≤ k then
    edgePos c.xl + BitVec.ofInt 32 (k - c.ym.toInt) * edgeInc c.dxldy
  else edgePos c.xm + BitVec.ofInt 32 (k - quarterFloor c.yh.toInt) * edgeInc c.dxmdy

/-- The attributes on scanline `j`. -/
def attrsAt (c : TriCmd) (j : Int) : Attrs :=
  (c.attrs Coeff.base).zip (fun b d => b + BitVec.ofInt 32 (j - c.yh.toInt / 4) * d) (c.attrs Coeff.de)

/-- The walk before iteration `k`: its edges, before the switch at `ym` that iteration may make, and its attributes. -/
structure WalkAt (c : TriCmd) (k : Int) (w : Walk) : Prop where
  xright : w.xright = rightAt c k
  xleft : k ≠ c.ym.toInt → w.xleft = leftAt c k
  incLeft : w.incLeft = if quarterFloor c.yh.toInt ≤ c.ym.toInt ∧ c.ym.toInt < k then edgeInc c.dxldy else edgeInc c.dxmdy
  attrs : w.attrs = attrsAt c (k / 4)

theorem mul_ofInt_succ (n : Int) (d : Word) : BitVec.ofInt 32 (n + 1) * d = BitVec.ofInt 32 n * d + d := by
  rw [BitVec.ofInt_add, BitVec.add_mul]
  congr 1
  exact BitVec.one_mul d

theorem rightAt_succ (c : TriCmd) (k : Int) : rightAt c (k + 1) = rightAt c k + edgeInc c.dxhdy := by
  unfold rightAt
  rw [show k + 1 - quarterFloor c.yh.toInt = (k - quarterFloor c.yh.toInt) + 1 by ring, mul_ofInt_succ, BitVec.add_assoc]

theorem leftAt_succ (c : TriCmd) (k : Int) (h : k + 1 ≠ c.ym.toInt) : leftAt c (k + 1) = leftAt c k +
    if quarterFloor c.yh.toInt ≤ c.ym.toInt ∧ c.ym.toInt ≤ k then edgeInc c.dxldy else edgeInc c.dxmdy := by
  unfold leftAt
  by_cases hk : quarterFloor c.yh.toInt ≤ c.ym.toInt ∧ c.ym.toInt ≤ k
  · rw [if_pos hk, if_pos hk, if_pos (by omega), show k + 1 - c.ym.toInt = (k - c.ym.toInt) + 1 by ring, mul_ofInt_succ,
      BitVec.add_assoc]
  · rw [if_neg hk, if_neg hk, if_neg (by omega),
      show k + 1 - quarterFloor c.yh.toInt = (k - quarterFloor c.yh.toInt) + 1 by ring, mul_ofInt_succ, BitVec.add_assoc]

theorem attrsAt_succ (c : TriCmd) (j : Int) : attrsAt c (j + 1) = (attrsAt c j).add (c.attrs Coeff.de) := by
  unfold attrsAt Attrs.add Attrs.zip
  rw [show j + 1 - c.yh.toInt / 4 = (j - c.yh.toInt / 4) + 1 by ring]
  simp only [mul_ofInt_succ, BitVec.add_assoc]

theorem spixOf_eq_three (k : Int) : spixOf k = 3 ↔ k % 4 = 3 := by
  unfold spixOf
  rw [Fin.ext_iff]
  show (k % 4).toNat % 4 = 3 ↔ _
  omega

/-- The walk starts at its first quarter-scanline with the positions of the record. -/
theorem walkStart_at (c : TriCmd) (p : WalkSetup) (s : State) : WalkAt c (quarterFloor c.yh.toInt) (walkStart c p s) where
  xright := by simp [walkStart, rightAt]
  xleft := fun h => by
    unfold leftAt
    rw [if_neg (by omega)]
    simp [walkStart]
  incLeft := by rw [if_neg (by omega)]; rfl
  attrs := by
    have e : quarterFloor c.yh.toInt / 4 = c.yh.toInt / 4 := by unfold quarterFloor; omega
    rw [e]
    simp [walkStart, attrsAt, Attrs.zip]

/-- Each iteration moves the edges and, at the end of a scanline, the attributes (R180, R192). -/
theorem walkStep_at {c : TriCmd} {s : State} {k : Int} {w : Walk} (hk : quarterFloor c.yh.toInt ≤ k) (h : WalkAt c k w) :
    WalkAt c (k + 1) (walkStep (walkSetup c s) k w) := by
  obtain ⟨hr, hl, hi, ha⟩ := h
  -- the state in which the iteration stores: `xleft` and its increment after the switch at `ym`
  have key : ∀ v : Walk, v.xright = rightAt c k → v.xleft = leftAt c k →
      v.incLeft = (if quarterFloor c.yh.toInt ≤ c.ym.toInt ∧ c.ym.toInt ≤ k then edgeInc c.dxldy else edgeInc c.dxmdy) →
      v.attrs = attrsAt c (k / 4) →
      WalkAt c (k + 1) { v with
        attrs := if spixOf k = 3 then v.attrs.add (walkSetup c s).dAde else v.attrs
        xleft := v.xleft + v.incLeft, xright := v.xright + (walkSetup c s).incRight } := by
    intro v h1 h2 h3 h4
    refine ⟨?_, fun hne => ?_, ?_, ?_⟩
    · show v.xright + _ = _
      rw [h1, rightAt_succ]; rfl
    · show v.xleft + v.incLeft = _
      rw [h2, h3, leftAt_succ c k hne]
    · show v.incLeft = _
      rw [h3]
      congr 1
      exact propext ⟨fun h => by omega, fun h => by omega⟩
    · show (if spixOf k = 3 then v.attrs.add (c.attrs Coeff.de) else v.attrs) = _
      rw [h4]
      split
      · next h3 =>
        have := (spixOf_eq_three k).1 h3
        rw [show (k + 1) / 4 = k / 4 + 1 by omega, attrsAt_succ]
      · next h3 =>
        have := mt (spixOf_eq_three k).2 h3
        rw [show (k + 1) / 4 = k / 4 by omega]
  have stored : ∀ v : Walk, v.xright = rightAt c k → v.xleft = leftAt c k →
      v.incLeft = (if quarterFloor c.yh.toInt ≤ c.ym.toInt ∧ c.ym.toInt ≤ k then edgeInc c.dxldy else edgeInc c.dxmdy) →
      v.attrs = attrsAt c (k / 4) →
      WalkAt c (k + 1) (let u := if (walkSetup c s).yhclose ≤ k then v.store (walkSetup c s) k (spixOf k) else v
        { u with
          attrs := if spixOf k = 3 then u.attrs.add (walkSetup c s).dAde else u.attrs
          xleft := u.xleft + u.incLeft, xright := u.xright + (walkSetup c s).incRight }) := by
    intro v h1 h2 h3 h4
    have e := SameEdges.store (walkSetup c s) k (spixOf k) v
    by_cases hc : (walkSetup c s).yhclose ≤ k
    · simp only [hc, if_true]
      exact key _ (e.xright.trans h1) (e.xleft.trans h2) (e.incLeft.trans h3) (e.attrs.trans h4)
    · simp only [hc, if_false]
      exact key _ h1 h2 h3 h4
  unfold walkStep
  by_cases hm : k = (walkSetup c s).ym
  · simp only [hm, if_true]
    have hm' : k = c.ym.toInt := hm
    rw [← hm]
    refine stored _ hr ?_ ?_ ha
    · unfold leftAt
      rw [if_pos (by omega), ← hm', Int.sub_self]
      simp [walkSetup]
    · rw [if_pos (by omega)]
      rfl
  · simp only [hm, if_false]
    have hm' : k ≠ c.ym.toInt := hm
    refine stored _ hr (hl hm') ?_ ha
    rw [show w.incLeft = _ from hi]
    congr 1
    exact propext ⟨fun h => by omega, fun h => by omega⟩

/-! ### Four iterations to a scanline -/

/-- A loop over `4 * n` quarter-scanlines is a loop over `n` scanlines. -/
theorem forUp_four {σ : Type} (body : Int → σ → σ) (n : Nat) (lo : Int) (x : σ) : forUp body (4 * n) (4 * lo) x =
    forUp (fun j x => body (4 * j + 3) (body (4 * j + 2) (body (4 * j + 1) (body (4 * j) x)))) n lo x := by
  induction n generalizing lo x with
  | zero => rfl
  | succ n ih =>
    rw [show 4 * (n + 1) = 4 * n + 1 + 1 + 1 + 1 by omega]
    simp only [forUp]
    rw [show 4 * lo + 1 + 1 + 1 + 1 = 4 * (lo + 1) by ring, ih, show 4 * lo + 1 + 1 = 4 * lo + 2 by ring,
      show 4 * lo + 2 + 1 = 4 * lo + 3 by ring]

/-- The walk covers whole scanlines: its first quarter is the first of a scanline and its last the last of one. -/
theorem walk_count (c : TriCmd) (s : State) : (walkSetup c s).ycur = 4 * (c.yh.toInt / 4) ∧
    count (walkSetup c s).ycur (walkSetup c s).ylfar =
      4 * (((walkSetup c s).ylfar + 1) / 4 - c.yh.toInt / 4).toNat := by
  have e : (walkSetup c s).ycur = 4 * (c.yh.toInt / 4) := by
    show quarterFloor _ = _
    unfold quarterFloor
    omega
  refine ⟨e, ?_⟩
  have h : ((walkSetup c s).ylfar + 1) % 4 = 0 := by
    have key : ∀ (n : Int) (b : Bool), ((if b then quarterFloor n + 3 + 4 else quarterFloor n + 3) + 1) % 4 = 0 := by
      intro n b
      unfold quarterFloor
      cases b
      · simp only [Bool.false_eq_true, if_false]; omega
      · simp only [if_true]; omega
    exact key _ _
  rw [e]
  unfold count
  omega

end Sys2Proof.Machine
end

