-- ==== Sys2Proof/Tests/Slice0.lean ====
section
/-! SUPPORT. Tests: every record decoded from bytes written out from R121 to R130, ill-formed operations refused, the vectors
of `95_test_vectors.md` one step each, and for every obligation with hypotheses a state and operands that meet them.
Expected values come from the vectors named in each docstring, or by hand from the rules cited. -/

namespace Sys2Proof.Tests

open Sys2Proof Sys2Proof.Machine

set_option Elab.async false

/-! ### Helpers -/

/-- The start state of the vectors: `RDRAM_BYTES = 0x100000`, `SEED0 = 1`. -/
def boot : State := { State.reset with ramExtra := 4, gs.hid.iseed := 1 }

/-- What a next state is, and no other outcome. -/
def isNext : Host.Outcome State Fault Refusal → Bool
  | .next _ => true
  | .fault _ => false
  | .refused _ => false

/-- The state after one operation; the state before it if it stops. -/
def after (i : Instr) (s : State) : State :=
  match exec i s with
  | .next t => t
  | .fault _ => s
  | .refused _ => s

/-- The result an operation returns. -/
def result (i : Instr) (s : State) : Ret := (after i s).ret

/-- The refusal of an operation, if it is refused. -/
def refusal (i : Instr) (s : State) : Option Refusal :=
  match exec i s with
  | .next _ => none
  | .fault _ => none
  | .refused r => some r

/-- One step at the port of `s` with one record. -/
def stepped (s : State) (rec : List Byte) : State :=
  match step { s with port := [rec] } with
  | .next t => t
  | .fault _ => s
  | .refused _ => s

/-- `n` bytes of RDRAM from `a`. -/
def bytesAt (s : State) (a n : Nat) : List Byte := (List.range n).map fun k => s.ramByte (a + k)

/-- An operation that answers a next state answers the one `after` names. -/
theorem exec_after {i : Instr} {s : State} (h : isNext (exec i s) = true) : exec i s = .next (after i s) := by
  unfold after
  cases hx : exec i s <;> simp_all [isNext]

/-- A `DRAW_TRI` record with every field 0. -/
def noTri : TriCmd :=
  { shade := false, texture := false, zbuf := false, flip := false, level := 0, tile := 0, yl := 0, ym := 0, yh := 0
    xl := 0, xh := 0, xm := 0, dxldy := 0, dxhdy := 0, dxmdy := 0
    r := .zero, g := .zero, b := .zero, a := .zero, s := .zero, t := .zero, w := .zero, z := .zero }

/-- The tile record of section 2.3 of the vectors: RGBA 16, one word a line, masks 2 and 1. -/
def tileCmd : TileCmd :=
  { tile := 0, format := 0, size := 2, line := 1, tmem := 0, palette := 0, ct := false, mt := false, maskT := 1, shiftT := 0
    cs := false, ms := false, maskS := 2, shiftS := 0 }

/-! ### Records, byte by byte (R121, R122, R123, R130, R150; layout of log entry 1, tags of log entry 2) -/

theorem test_decode_drawTri : decode ([0x08, 1, 5, 3, 0x3F, 0xFF, 0x20, 0x00, 0x00, 0x04] ++
    [0x0F, 0xFF, 0xFF, 0xFF, 0, 1, 0, 0, 0, 2, 0, 0] ++ [0xFF, 0xFF, 0, 0, 0, 0, 0x80, 0, 0x80, 0, 0, 1]) =
    .ok (.drawTri { noTri with
      flip := true, level := 5, tile := 3, yl := -1, ym := 0x2000, yh := 4
      xl := 0x0FFFFFFF, xh := 0x10000, xm := 0x20000, dxldy := 0xFFFF0000, dxhdy := 0x8000, dxmdy := 0x80000001 }) := by rfl

/-- Tag 0x0D: shade and depth groups, in the order r, g, b, a, z, each base, "dx", "de", "dy". -/
theorem test_decode_drawTri_groups : decode ([0x0D] ++ List.replicate 33 0 ++
    [0, 0, 0, 1, 0, 0, 0, 2, 0, 0, 0, 3, 0, 0, 0, 4] ++ [0, 0, 0, 5, 0, 0, 0, 6, 0, 0, 0, 7, 0, 0, 0, 8] ++
    [0, 0, 0, 9, 0, 0, 0, 10, 0, 0, 0, 11, 0, 0, 0, 12] ++ [0, 0, 0, 13, 0, 0, 0, 14, 0, 0, 0, 15, 0, 0, 0, 16] ++
    [0, 0, 0, 17, 0, 0, 0, 18, 0, 0, 0, 19, 0, 0, 0, 20]) =
    .ok (.drawTri { noTri with
      shade := true, zbuf := true, r := ⟨1, 2, 3, 4⟩, g := ⟨5, 6, 7, 8⟩, b := ⟨9, 10, 11, 12⟩, a := ⟨13, 14, 15, 16⟩
      z := ⟨17, 18, 19, 20⟩ }) := by rfl

/-- Tag 0x0A: the texture group alone. -/
theorem test_decode_drawTri_texture : decode ([0x0A] ++ List.replicate 33 0 ++
    [0, 0, 0, 1, 0, 0, 0, 2, 0, 0, 0, 3, 0, 0, 0, 4] ++ [0, 0, 0, 5, 0, 0, 0, 6, 0, 0, 0, 7, 0, 0, 0, 8] ++
    [0, 0, 0, 9, 0, 0, 0, 10, 0, 0, 0, 11, 0, 0, 0, 12]) =
    .ok (.drawTri { noTri with texture := true, s := ⟨1, 2, 3, 4⟩, t := ⟨5, 6, 7, 8⟩, w := ⟨9, 10, 11, 12⟩ }) := by rfl

theorem test_decode_setKeyGb : decode [0x2A, 0x01, 0x02, 0x0F, 0xFF, 5, 6, 7, 8] = .ok (.setKeyGb 0x102 0xFFF 5 6 7 8) := by rfl

theorem test_decode_setKeyR : decode [0x2B, 0x08, 0x01, 2, 3] = .ok (.setKeyR 0x801 2 3) := by rfl

theorem test_decode_setConvert : decode [0x2C, 1, 0xFF, 0, 1, 1, 0, 0, 2, 0, 3, 0, 4] =
    .ok (.setConvert 0x1FF 1 0x100 2 3 4) := by rfl

theorem test_decode_setScissor : decode [0x2D, 0, 1, 0, 2, 0x0F, 0xF0, 0, 4, 1, 0] =
    .ok (.setScissor 1 2 0xFF0 4 true false) := by rfl

theorem test_decode_setPrimDepth : decode [0x2E, 0x80, 0x01, 0x12, 0x34] = .ok (.setPrimDepth 0x8001 0x1234) := by rfl

theorem test_decode_setOtherModes : decode [0x2F, 0xFF, 0x30, 0, 0, 0, 0, 0, 1] = .ok (.setOtherModes 0xFF30000000000001) := by
  rfl

theorem test_decode_setTileSize : decode [0x32, 7, 0, 1, 0, 2, 0, 12, 0x0F, 0xFF] = .ok (.setTileSize 7 1 2 12 0xFFF) := by rfl

theorem test_decode_loadTile : decode [0x34, 6, 0, 1, 0, 2, 0, 12, 0x0F, 0xFF] = .ok (.loadTile 6 1 2 12 0xFFF) := by rfl

theorem test_decode_setTile : decode [0x35, 1, 2, 1, 1, 8, 1, 0, 3, 0, 1, 5, 6, 1, 0, 4, 7] =
    .ok (.setTile { tile := 1, format := 2, size := 1, line := 0x108, tmem := 0x100, palette := 3, ct := false, mt := true
                    maskT := 5, shiftT := 6, cs := true, ms := false, maskS := 4, shiftS := 7 }) := by rfl

theorem test_decode_setFillColor : decode [0x37, 0xFF, 0, 0, 0xFE] = .ok (.setFillColor 0xFF0000FE) := by rfl

theorem test_decode_colors : decode [0x38, 1, 2, 3, 4] = .ok (.setFogColor 1 2 3 4) ∧
    decode [0x39, 1, 2, 3, 4] = .ok (.setBlendColor 1 2 3 4) ∧ decode [0x3B, 1, 2, 3, 4] = .ok (.setEnvColor 1 2 3 4) :=
  ⟨rfl, rfl, rfl⟩

theorem test_decode_setPrimColor : decode [0x3A, 31, 0x80, 1, 2, 3, 4] = .ok (.setPrimColor 31 0x80 1 2 3 4) := by rfl

theorem test_decode_setCombineMode : decode [0x3C, 0, 0, 1, 0x10, 8, 0xFC, 1, 0x3C] = .ok (.setCombineMode 0x0000011008FC013C) := by
  rfl

theorem test_decode_setZImage : decode [0x3E, 3, 0, 0x20, 0] = .ok (.setZImage 0x3002000) := by rfl

theorem test_decode_setColorImage : decode [0x3F, 1, 2, 3, 0xFF, 2, 0, 0x10, 0] = .ok (.setColorImage 1 2 0x3FF 0x2001000) := by
  rfl

theorem test_decode_rects : decode [0x40, 0, 0x10, 0, 4, 0, 1, 0, 2] = .ok (.fillRect 0x10 4 1 2) ∧
    decode [0x41, 0, 0x10, 0, 8, 5, 0, 1, 0, 2, 0xFF, 0xE0, 0, 3, 4, 0, 0xFC, 0] =
      .ok (.texRect 0x10 8 5 1 2 0xFFE0 3 0x400 0xFC00) := ⟨rfl, rfl⟩

/-- R121, R161: other tags, and bits above the six of a tag, are rejected by name; no byte, no tag. -/
theorem test_decode_rejects : decode [0x00] = .error (.unknownTag 0x00) ∧ decode [0x07, 1] = .error (.unknownTag 0x07) ∧
    decode [0x10] = .error (.unknownTag 0x10) ∧ decode [0x3D] = .error (.unknownTag 0x3D) ∧
    decode [0x48] = .error (.unknownTag 0x48) ∧ decode [] = .error .noTag := ⟨rfl, rfl, rfl, rfl, rfl, rfl⟩

/-- R155: "omitted fields are 0"; bytes after the last field are ignored. -/
theorem test_decode_short_and_long : decode [0x32, 7] = .ok (.setTileSize 7 0 0 0 0) ∧
    decode [0x3E, 3, 0, 0x20, 0, 0xAA] = .ok (.setZImage 0x3002000) := ⟨rfl, rfl⟩

/-! ### Well-formedness refuses -/

/-- R123: a coefficient in a group that is absent, in each of the three groups. -/
theorem test_illformed_tri : (Instr.drawTri { noTri with r := ⟨0, 0, 0, 1⟩ }).wf = false ∧
    (Instr.drawTri { noTri with a := ⟨1, 0, 0, 0⟩ }).wf = false ∧ (Instr.drawTri { noTri with s := ⟨0, 1, 0, 0⟩ }).wf = false ∧
    (Instr.drawTri { noTri with z := ⟨0, 0, 1, 0⟩ }).wf = false ∧ (Instr.edgewalk { noTri with w := ⟨0, 0, 0, 1⟩ }).wf = false ∧
    (Instr.edgewalk { noTri with z := ⟨1, 0, 0, 0⟩ }).wf = false ∧ (Instr.edgewalk { noTri with g := ⟨1, 0, 0, 0⟩ }).wf = false ∧
    (Instr.drawTri { noTri with shade := true, r := ⟨0, 0, 0, 1⟩ }).wf = true := by decide

/-- The texture operands of pixel 0 of a span of 8 pixels. -/
def texOps : TexOperands := ⟨0, 0, 0, 0, 0, 0, 0, 0, 0, 7⟩

/-- R30: a pixel count past the end of its span, in each operation that takes one; the end itself is well-formed. -/
theorem test_illformed_count : (Instr.texture1cycle { texOps with j := 8 }).wf = false ∧
    (Instr.nextCoords1cycle { texOps with j := 8 }).wf = false ∧ (Instr.texture2cycle { texOps with j := 8 }).wf = false ∧
    (Instr.lod1cycle 0 0 { texOps with j := 8 }).wf = false ∧ (Instr.lod2cycle 0 0 { texOps with j := 8 }).wf = false ∧
    (Instr.texture1cycle { texOps with j := 7 }).wf = true := by decide

/-! ### Commands (vectors of 2.10 and the rules of `49_config_commands.md`) -/

/-- V49-4 (R532): bits 63:56 are dropped and the stale flag is set. -/
theorem test_setOtherModes : (stepped { boot with gs.stale := false } [0x2F, 0xFF, 0x30, 0, 0, 0, 0, 0, 0]).gs.om =
    0x0030000000000000 ∧ (after (.setOtherModes 0) { boot with gs.stale := false }).gs.stale = true := by decide +kernel

/-- R534: as `SET_OTHER_MODES`. -/
theorem test_setCombineMode : (after (.setCombineMode 0xAB00011008FC013C) boot).gs.cc = 0x0000011008FC013C := by decide +kernel

/-- V49-2 (R552): the width register holds the record's width plus one, at the top of its range too. -/
theorem test_setColorImage : (after (.setColorImage 0 2 3 0x1000) boot).gs.img = ⟨0, 2, 4, 0x1000, 0⟩ ∧
    (after (.setColorImage 0 2 1023 0x1000) boot).gs.img.fbWidth = 1024 := by decide +kernel

theorem test_setZImage : (after (.setZImage 0x2000) boot).gs.img.zbAddress = 0x2000 := by decide +kernel

/-- R553: the primitive depth loses its top bit and moves up 16 places. -/
theorem test_setPrimDepth : (after (.setPrimDepth 0xFFFF 0x1234) boot).gs.misc.primitiveZ = 0x7FFF0000 ∧
    (after (.setPrimDepth 0xFFFF 0x1234) boot).gs.misc.primitiveDeltaZ = 0x1234 := by decide +kernel

/-- R559. -/
theorem test_setScissor : (after (.setScissor 1 2 3 4 true false) boot).gs.clip = ⟨1, 2, 3, 4, true, false⟩ := by decide +kernel

/-- R554 to R558: each field to the register of its name. -/
theorem test_colors : (after (.setFillColor 0xFF0000FF) boot).gs.misc.fillColor = 0xFF0000FF ∧
    (after (.setFogColor 1 2 3 4) boot).gs.col.fog = ⟨1, 2, 3, 4⟩ ∧ (after (.setBlendColor 1 2 3 4) boot).gs.col.blend = ⟨1, 2, 3, 4⟩ ∧
    (after (.setEnvColor 1 2 3 4) boot).gs.col.env = ⟨1, 2, 3, 4⟩ ∧ (after (.setPrimColor 9 8 1 2 3 4) boot).gs.col.prim = ⟨1, 2, 3, 4⟩ ∧
    (after (.setPrimColor 9 8 1 2 3 4) boot).gs.sca.minLevel = 9 ∧ (after (.setPrimColor 9 8 1 2 3 4) boot).gs.sca.primLodFrac = 8 ∧
    (after (.setConvert 1 2 3 4 5 0x1FF) boot).gs.sca.k5 = 0x1FF ∧ (after (.setConvert 1 2 3 4 5 0x1FF) boot).gs.sca.k2 = 3 ∧
    (after (.setKeyR 1 2 3) boot).gs.col.keyScale.r = 3 ∧ (after (.setKeyR 1 2 3) boot).gs.col.keyCenter.r = 2 ∧
    (after (.setKeyGb 1 2 3 4 5 6) boot).gs.col.keyWidth = ⟨0, 1, 2⟩ ∧ (after (.setKeyGb 1 2 3 4 5 6) boot).gs.col.keyCenter = ⟨0, 3, 5⟩ ∧
    (after (.setKeyGb 1 2 3 4 5 6) boot).gs.col.keyScale = ⟨0, 4, 6⟩ := by decide +kernel

/-- The state of the texture vectors: tile and TMEM image of section 2.3, loaded from outside. -/
def textured : State :=
  { after (.setTileSize 0 0 0 12 4) (after (.setTile tileCmd) boot) with
    tmem := [(0, 0xF8), (1, 0x01), (2, 0x07), (3, 0xC1), (5, 0x3F), (6, 0xFF), (7, 0xFF), (8, 0x42), (9, 0x11), (10, 0xC6),
      (11, 0x31), (13, 0x01), (14, 0x84), (15, 0x21)] }

/-- Section 2.3, "Derived fields" (R546). -/
theorem test_setTile : (textured.tile 0).clampdiffs = 3 ∧ (textured.tile 0).clampdifft = 1 ∧ (textured.tile 0).clampens = false ∧
    (textured.tile 0).clampent = false ∧ (textured.tile 0).masksclamped = 2 ∧ (textured.tile 0).masktclamped = 1 ∧
    (textured.tile 0).notlutswitch = 2 := by decide +kernel

/-- R546: a mask above 10 clamps, a mask of 0 clamps the tile; the description stays. -/
theorem test_recomputeTile :
    let t := (after (.recomputeTile 5) (after (.setTile { tileCmd with tile := 5, maskS := 11, maskT := 0 }) boot)).tile 5
    t.masksclamped = 10 ∧ t.clampens = false ∧ t.clampent = true ∧ t.maskS = 11 := by decide +kernel

/-- R542, R544: `LOAD_TILE` sets the rectangle too, and leaves RDRAM. -/
theorem test_loadTile : ((after (.loadTile 3 4 8 12 16) boot).tile 3).sh = 12 ∧ (after (.loadTile 3 4 8 12 16) boot).ram = boot.ram :=
  ⟨rfl, rfl⟩

/-- V49-3: P2, P5 and P6. The cycle-0 selectors of P2 are 0, so alpha input C is the LOD fraction: `cycle2_mode` 1 (R33). -/
theorem test_deduceDerivatives :
    (after .deduceDerivatives { boot with gs.om := 0x000000F000000000, gs.cc := 0x0000011008FC013C }).gs.der =
      ⟨0, 1, true, true, false, false, 15, 2, false, false⟩ ∧
    (let d := (after .deduceDerivatives { boot with gs.om := 0x0000003000404048, gs.cc := 0x0000011008FC013C }).gs.der
     d.cycle1Mode = 0 ∧ d.rgbAlphaDither = 3 ∧ d.ditherLevel = 1 ∧ d.partialreject1cycle = true) ∧
    (let d := (after .deduceDerivatives { boot with gs.om := 0x000008F000000000, gs.cc := 0x0000011008FC0079 }).gs.der
     d.cycle1Mode = 1 ∧ d.ditherLevel = 2 ∧ d.dolod = false) := by decide +kernel

/-! ### Draws: the last command of each program of section 3, and the edge walker's vectors -/

/-- The start state of P1: a 16-bit image of width 4, fill mode, red. -/
def p1State : State :=
  { boot with gs.img := ⟨0, 2, 4, 0x1000, 0⟩, gs.clip := ⟨0, 0, 0x10, 4, false, false⟩, gs.om := 0x0030000000000000
              gs.misc.fillColor := 0xFF0000FF }

/-- The record of P1: what its `FILL_RECT` expands to. -/
def p1Tri : TriCmd := { noTri with flip := true, yl := 7, ym := 7, xl := 0x40000, xm := 0x40000 }

/-- The record of P4, with a sloped edge. -/
def p4Tri : TriCmd := { noTri with flip := true, yl := 8, ym := 8, xm := 0x40000, dxmdy := 0xFFFF0000 }

/-- The start state of P4. -/
def p4State : State :=
  { p1State with gs.img := ⟨0, 2, 8, 0x1000, 0⟩, gs.clip := ⟨0, 0, 0x20, 8, false, false⟩, gs.misc.fillColor := 0x00FF00FF }

/-- P1: four red pixels and their hidden bits, nothing after them. -/
theorem test_fillRect : let t := after (.fillRect 0x10 4 0 0) p1State
    bytesAt t 0x1000 9 = [0xF8, 1, 0xF8, 1, 0xF8, 1, 0xF8, 1, 0] ∧ t.hidden = [(0x800, 3), (0x801, 3), (0x802, 3), (0x803, 3)] ∧
    t.gs.stale = false ∧ t.gs.hid.iseed = 1 ∧ t.gs.seq.phase = .idle ∧ t.gs.pipelineCrashed = false := by decide +kernel

/-- P4: a sloped edge in fill mode. -/
theorem test_drawTri_fill : let t := after (.drawTri p4Tri) p4State
    bytesAt t 0x1000 8 = [7, 0xC1, 7, 0xC1, 7, 0xC1, 7, 0xC1] ∧ bytesAt t 0x1008 8 = List.replicate 8 0 ∧
    bytesAt t 0x1010 8 = [7, 0xC1, 7, 0xC1, 7, 0xC1, 0, 0] := by decide +kernel

/-- The start state of P5: a blue image with full coverage. -/
def p5State : State :=
  { p4State with
    gs.om := 0x0000003000404048, gs.cc := 0x0000011008FC013C, ram := (List.range 16).map (fun k => (0x1001 + 2 * k, 0x3F))
    hidden := (List.range 16).map (fun k => (0x800 + k, 3)) }

/-- The record of P5. -/
def p5Tri : TriCmd :=
  { p4Tri with
    shade := true, r := ⟨0xC80000, 0, 0, 0⟩, g := ⟨0x640000, 0, 0, 0⟩, b := ⟨0x320000, 0, 0, 0⟩, a := ⟨0x800000, 0, 0, 0⟩ }

/-- P5: antialiased, blended and dithered. -/
theorem test_drawTri_blend : let t := after (.drawTri p5Tri) p5State
    bytesAt t 0x1000 10 = [0x69, 0xE7, 0x61, 0xA5, 0x69, 0xE7, 0x61, 0xA5, 0, 0x3F] ∧
    bytesAt t 0x1010 8 = [0x61, 0xA7, 0x69, 0xA7, 0x61, 0xA5, 0, 0x3F] ∧ t.gs.hid.iseed = 1 := by decide +kernel

/-- The start state of P6. -/
def p6State : State :=
  { textured with
    gs.img := ⟨0, 2, 4, 0x1000, 0⟩, gs.clip := ⟨0, 0, 0x10, 8, false, false⟩, gs.om := 0x000008F000000000
    gs.cc := 0x0000011008FC0079 }

/-- P6: a textured rectangle shows the texture. -/
theorem test_texRect : let t := after (.texRect 0x10 8 0 0 0 0 0 0x400 0x400) p6State
    bytesAt t 0x1000 16 = [0xF8, 1, 7, 0xC1, 0, 0x3F, 0xFF, 0xFF, 0, 1, 0x84, 0x21, 0x42, 0x11, 0xC6, 0x31] := by decide +kernel

/-- The start state of P3: Z compare and update on, the four Z words at the far plane but for pixel (1,0). -/
def p3State (z : List Host.Cell) : State :=
  { boot with gs.img := ⟨0, 2, 4, 0x1000, 0x2000⟩, gs.clip := ⟨0, 0, 0x10, 4, false, false⟩, gs.om := 0x000000F000000030
              gs.cc := 0x0000011008FC013C
              ram := [(0x2000, 0xFF), (0x2001, 0xFC)] ++ z ++ [(0x2004, 0xFF), (0x2005, 0xFC), (0x2006, 0xFF), (0x2007, 0xFC)] }

/-- The records of P3. -/
def p3Tri (r g z : Word) : TriCmd :=
  { noTri with shade := true, zbuf := true, flip := true, yl := 4, ym := 4, xl := 0x20000, xm := 0x20000, xh := 0x10000
               r := ⟨r, 0, 0, 0⟩, g := ⟨g, 0, 0, 0⟩, a := ⟨0xFF0000, 0, 0, 0⟩, z := ⟨z, 0, 0, 0⟩ }

/-- P3: the far draw on a clear depth passes and stores word 0x1000; the near draw passes on it; the far one fails on 0x0800. -/
theorem test_drawTri_depth :
    (let t := after (.drawTri (p3Tri 0xC80000 0 0x20000000)) (p3State [(0x2002, 0xFF), (0x2003, 0xFC)])
     bytesAt t 0x1002 2 = [0xC8, 0x01] ∧ bytesAt t 0x2002 2 = [0x10, 0x00]) ∧
    (let t := after (.drawTri (p3Tri 0 0xC80000 0x10000000)) (p3State [(0x2002, 0x10)])
     bytesAt t 0x1002 2 = [0x06, 0x41] ∧ bytesAt t 0x2002 2 = [0x08, 0x00]) ∧
    (let t := after (.drawTri (p3Tri 0xC80000 0 0x20000000)) (p3State [(0x2002, 0x08)])
     bytesAt t 0x1002 2 = [0, 0] ∧ bytesAt t 0x2000 8 = [0xFF, 0xFC, 0x08, 0x00, 0xFF, 0xFC, 0xFF, 0xFC]) := by decide +kernel

/-- P7, V60-1 to V60-4 (R570, R572, R574): a crash writes nothing and abandons the command; the next draw runs, and the flag
stays. -/
theorem test_crash : (let t := after (.fillRect 0x10 4 0 0) { p1State with gs.img.fbSize := 0 }
      t.gs.pipelineCrashed = true ∧ t.ram = [] ∧ t.gs.seq = ⟨.idle, 0, 0, 0, 0, 0⟩) ∧
    (after (.fillRect 0x10 4 0 0) { p1State with gs.om := 0x0030000000000020 }).gs.pipelineCrashed = true ∧
    (after (.texRect 0x10 4 0 0 0 0 0 0x400 0x400) { p1State with gs.img.fbSize := 3, gs.om := 0x0020000000000000 }).gs.pipelineCrashed
      = true ∧
    (let t := after (.fillRect 0x10 4 0 0) { p1State with gs.pipelineCrashed := true, gs.misc.fillColor := 0xFFFFFFFF }
     t.gs.pipelineCrashed = true ∧ bytesAt t 0x1000 8 = List.replicate 8 0xFF) := by decide +kernel

/-- V40-1. -/
theorem test_edgewalk : let t := after (.edgewalk p1Tri) p1State
    t.ret = .limits 0 1 ∧ (t.spanAt 0).lx = 4 ∧ (t.spanAt 0).rx = 0 ∧ (t.spanAt 0).unscrx = 0 ∧ (t.spanAt 0).validline = true ∧
    (t.spanAt 0).majorx = #v[0, 0, 0, 0] ∧ (t.spanAt 0).minorx = #v[0x20, 0x20, 0x20, 0x20] ∧
    (t.spanAt 0).invalyscan = #v[false, false, false, false] ∧ (t.spanAt 1).rx = 0xFFF ∧ (t.spanAt 1).lx = 0 ∧
    (t.spanAt 1).validline = false ∧ (t.spanAt 1).invalyscan = #v[true, true, true, true] := by decide +kernel

/-- V40-2. -/
theorem test_edgewalk_slope : let t := after (.edgewalk p4Tri) p4State
    t.ret = .limits 0 2 ∧ (t.spanAt 0).minorx = #v[0x20, 0x1E, 0x1C, 0x1A] ∧ (t.spanAt 0).lx = 4 ∧
    (t.spanAt 1).minorx = #v[0x18, 0x16, 0x14, 0x12] ∧ (t.spanAt 1).lx = 3 ∧ (t.spanAt 1).rx = 0 ∧ (t.spanAt 1).validline = true ∧
    (t.spanAt 2).validline = false := by decide +kernel

/-- A pair of depth slopes. -/
def depthTri (dx dy : Word) : TriCmd := { noTri with zbuf := true, z := ⟨0, dx, 0, dy⟩ }

/-- V40-6 (R178). -/
theorem test_edgewalk_dzpix : ([(0, 0), (0x10000, 0), (0x20000, 0), (0xFFFF0000, 0), (0x40000000, 0)] : List (Word × Word)).map
    (fun p => (after (.edgewalk (depthTri p.1 p.2)) boot).gs.slopes.dzpix) = [1, 3, 4, 1, 0x8000] := by decide +kernel

/-- V40-3: with the scissor of reset every line is invalid and nothing is drawn. -/
theorem test_drawTri_scissored : (after (.drawTri p1Tri) { p1State with gs.clip := ⟨0, 0, 0, 0, false, false⟩ }).ram = [] ∧
    ((after (.edgewalk p1Tri) boot).spanAt 0).validline = false := by decide +kernel

/-! ### Renderers (vectors of 2.2) -/

/-- The state after the edge walk of P1, its classification deduced: one valid span of pixels 0 to 3. -/
def walked : State := after (.edgewalk p1Tri) { p1State with gs.stale := false }

/-- V41-3; and V41-1: in cycle type 3 `RENDER_SPANS` is the fill renderer. -/
theorem test_renderFill : bytesAt (after (.renderFill 0 1 true) walked) 0x1000 10 = [0xF8, 1, 0xF8, 1, 0xF8, 1, 0xF8, 1, 0, 0] ∧
    (after (.renderSpans 0 1 0 true) walked).ram = (after (.renderFill 0 1 true) walked).ram := by decide +kernel

/-- The textured state with the spans of P1, in copy mode, four texels a group (R240). -/
def copyState : State :=
  { walked with gs.tiles := textured.gs.tiles, tmem := textured.tmem, gs.om := 0x0020000000000000 }

/-- R240: row 0 of the texture, and pixel 4 of the span from the next group, whose `s` is again 0 here; hidden bits follow the
alpha bit; with alpha compare a texel without its alpha bit is not written. -/
theorem test_renderCopy : bytesAt (after (.renderCopy 0 1 0 true) copyState) 0x1000 8 =
    [0xF8, 0x01, 0x07, 0xC1, 0x00, 0x3F, 0xFF, 0xFF] ∧
    (after (.renderCopy 0 1 0 true) copyState).hidden = [(0x800, 3), (0x801, 3), (0x802, 3), (0x803, 3), (0x804, 3)] ∧
    bytesAt (after (.renderCopy 0 1 0 true) { copyState with gs.om := 0x0020000000000001, tmem := [(1, 0x01), (2, 0x07)] }) 0x1000 4
      = [0x00, 0x01, 0, 0] := by decide +kernel

/-- The shade colour of P2 across a span, in one and in two cycles. -/
def shadedState (om cc : BitVec 64) : State :=
  after .deduceDerivatives { after (.edgewalk { p1Tri with shade := true, r := ⟨0x800000, 0, 0, 0⟩, g := ⟨0x400000, 0, 0, 0⟩
                                                           b := ⟨0x200000, 0, 0, 0⟩, a := ⟨0xFF0000, 0, 0, 0⟩ }) p1State with
    gs.om := om, gs.cc := cc }

/-- The cycle-0 selectors that pass the shade colour through, and cycle 1 passing the combined colour (V44-3, R42). -/
def shadeThenCombined : BitVec 64 :=
  8 <<< 52 ||| 16 <<< 47 ||| 7 <<< 44 ||| 7 <<< 41 ||| 8 <<< 37 ||| 16 <<< 32 ||| 8 <<< 28 ||| 8 <<< 24 ||| 7 <<< 21 ||| 7 <<< 18 |||
    4 <<< 15 ||| 7 <<< 12 ||| 4 <<< 9 ||| 7 <<< 3

/-- R214 with the pixel of P2: 0x8209 at every pixel. -/
theorem test_render1cycle :
    bytesAt (after (.render1cycle 0 1 0 true) (shadedState 0x000000F000000000 0x0000011008FC013C)) 0x1000 10 =
      [0x82, 0x09, 0x82, 0x09, 0x82, 0x09, 0x82, 0x09, 0, 0] := by decide +kernel

/-- R232, R362: the first cycle's colour passes through the second. -/
theorem test_render2cycle :
    bytesAt (after (.render2cycle 0 1 0 true) (shadedState 0x001000F000000000 shadeThenCombined)) 0x1000 10 =
      [0x82, 0x09, 0x82, 0x09, 0x82, 0x09, 0x82, 0x09, 0, 0] := by decide +kernel

/-- The textured state with a filter of `bi_lerp0` and `bi_lerp1`, tile 1 described as tile 0, in a texture mode of each cycle
type. -/
def texState (mode1 mode2 : BitVec 2) : State :=
  { textured with
    gs.der.cycle1Mode := mode1, gs.der.cycle2Mode := mode2, gs.om := 3 <<< 42
    gs.tiles := textured.gs.tiles.set 1 (textured.tile 0) }

/-- Texture operands at texel 1 of row 0, one texel a pixel. -/
def texel1Ops : TexOperands := { texOps with s := 0x200000, dsinc := 0x200000 }

/-- R218: one texel register in mode 1, the next pixel's in mode 2. -/
theorem test_texture1cycle :
    (after (.texture1cycle texel1Ops) (texState 1 0)).gs.col.texel0 = ⟨0, 0xFF, 0, 0xFF⟩ ∧
    (after (.texture1cycle texel1Ops) (texState 1 0)).gs.col.texel1 = ⟨0, 0, 0, 0⟩ ∧
    (after (.texture1cycle texel1Ops) (texState 2 0)).gs.col.texel1 = ⟨0, 0, 0xFF, 0xFF⟩ := by decide +kernel

/-- R234: texel 1 from tile 1, the next texel from the next pixel. -/
theorem test_texture2cycle : let t := after (.texture2cycle texel1Ops) (texState 0 3)
    t.gs.col.texel0 = ⟨0, 0xFF, 0, 0xFF⟩ ∧ t.gs.col.texel1 = ⟨0, 0xFF, 0, 0xFF⟩ ∧ t.gs.col.nexttexel = ⟨0, 0, 0xFF, 0xFF⟩ := by
  decide +kernel

/-- R220: the next pixel, and at the end of a span of more than 8 pixels the start of the next scanline if it is valid. -/
theorem test_nextCoords1cycle :
    result (.nextCoords1cycle { texOps with s := 5, dsinc := 3, dtinc := 4, dwinc := 0xFFFFFFFF }) boot = .coords32 8 4 0xFFFFFFFF ∧
    result (.nextCoords1cycle { texOps with s := 5, dsinc := 3, j := 8, length := 8 })
      { boot with gs.span := [(1, { Span.reset with validline := true, attrs := { zeroAttrs with s := 77 } })] } =
      .coords32 77 0 0 := by decide +kernel

/-- The operands of V41-2: full coverage. -/
def fullCvg (r : BitVec 18) (z : BitVec 22) : CorrectOperands := ⟨0, 0, r, 0, 0, 0, z, 8, 0, 0⟩

/-- V41-2. -/
theorem test_rgbazCorrect : ([0x200, 0x3FC, 0x400, 0x3FFFC] : List (BitVec 18)).map
      (fun r => (after (.rgbazCorrect (fullCvg r 0)) boot).gs.col.shade.r) = [0x80, 0xFF, 0xFF, 0] ∧
    ([0x80000, 0x40000, 0x1FFFFF] : List (BitVec 22)).map (fun z => result (.rgbazCorrect (fullCvg 0 z)) boot) =
      [.depth 0x10000, .depth 0x8000, .depth 0x3FFFF] := by decide +kernel

/-- R226 with partial coverage, by hand: `(0x200 * 4 + 2 * 0x40 + 3 * 0x20) / 16 = 0x8E`, `(0x80000 * 4 + 2 * 0x10) / 32`. -/
theorem test_rgbazCorrect_partial :
    let m := { boot with gs.slopes.cdr := 0x40, gs.slopes.drdy := 0x20 }
    let t := after (.rgbazCorrect ⟨2, 3, 0x200, 0, 0, 0, 0x80000, 4, 0x10, 0⟩) m
    t.gs.col.shade.r = 0x8E ∧ t.ret = .depth 0x10001 := by decide +kernel

/-! ### Texture coordinates, filters, level of detail (vectors of 2.3) -/

/-- R264. -/
theorem test_tcDivNonpersp : result (.tcDivNonpersp 0x0020 0xFFE0 0) boot = .coords19 0x20 0x1FFE0 := by decide +kernel

/-- R266: a `w` that is not positive marks both coordinates, whatever the table holds; a `w` of 1 with `c` 0 marks none. -/
theorem test_tcDivPersp : (tcDivPersp 0x0020 0xFFE0 0).s.getLsbD 18 = true ∧ (tcDivPersp 0x0020 0xFFE0 0).t.getLsbD 18 = true ∧
    (tcDivPersp 0 0 1).s = 0 ∧
    result (.tcDivPersp 0 0 1) boot = .coords19 (tcDivPersp 0 0 1).s (tcDivPersp 0 0 1).t := by
  simp [tcDivPersp, perspAxis, result, after, exec, execTcDivPersp, State.setRet]

/-- V42-1. -/
theorem test_tcClamp17 : ([0x00020, 0x07FFF, 0x08000, 0x10000, 0x1FFE0, 0x20000, 0x40010] : List (BitVec 19)).map
      (fun c => result (.tcClamp17 c) boot) =
    [.coord16 0x20, .coord16 0x7FFF, .coord16 0x7FFF, .coord16 0x8000, .coord16 0xFFE0, .coord16 0x8000, .coord16 0x7FFF] := by
  decide +kernel

/-- V42-2; and the edge of a right shift: `shift` 10 shifts right, 11 shifts left by 5. -/
theorem test_tcShift : result (.tcShift 0x0100 3 0x7C) boot = .shifted 32 false ∧
    result (.tcShift 0x0100 13 0x7C) boot = .shifted 2048 true ∧ result (.tcShift 0xFFE0 0 0x7C) boot = .shifted (-32) false ∧
    result (.tcShift 0x0F80 0 0x7C) boot = .shifted 3968 true ∧ result (.tcShift 0x0400 10 0x7C) boot = .shifted 1 false ∧
    result (.tcShift 1 11 0x7C) boot = .shifted 32 false := by decide +kernel

/-- R271: past the tile, before the tile, inside it, and with clamping off. -/
theorem test_tcClamp : result (.tcClamp 0x100 9 true true 3) boot = .clamped 3 0 ∧
    result (.tcClamp (-1) 31 false true 3) boot = .clamped 0 0 ∧ result (.tcClamp 0x49 9 false true 3) boot = .clamped 2 9 ∧
    result (.tcClamp (-32) 0 false false 3) boot = .clamped 0xFFF 0 := by decide +kernel

/-- V42-3; mask 0 passes the coordinate. -/
theorem test_tcMask : result (.tcMask 5 2 false 2) boot = .masked 1 ∧ result (.tcMask 5 2 true 2) boot = .masked 2 ∧
    result (.tcMask 4 2 true 2) boot = .masked 3 ∧ result (.tcMask 0xFFB 0 true 0) boot = .masked 0xFFB := by decide +kernel

/-- V42-4. -/
theorem test_tcMaskCoupled : result (.tcMaskCoupled 3 2 false 2) boot = .coupled 3 (-3) ∧
    result (.tcMaskCoupled 2 2 false 2) boot = .coupled 2 1 ∧ result (.tcMaskCoupled 3 2 true 2) boot = .coupled 3 0 ∧
    result (.tcMaskCoupled 4 2 true 2) boot = .coupled 3 (-1) ∧ result (.tcMaskCoupled 7 2 true 2) boot = .coupled 0 0 := by
  decide +kernel

/-- V42-5, point sampled. -/
theorem test_texCycle_point : ([(0x20, 0), (0x20, 0x20), (0x70, 0), (0x80, 0), (0xFFE0, 0), (0x30, 0x10)] :
      List (BitVec 16 × BitVec 16)).map
      (fun c => result (.texCycle (zeroColor 9) c.1 c.2 0 false) { textured with gs.om := 1 <<< 43 }) =
    [.texel ⟨0, 0xFF, 0, 0xFF⟩, .texel ⟨0x84, 0x84, 0x84, 0xFF⟩, .texel ⟨0xFF, 0xFF, 0xFF, 0xFF⟩, .texel ⟨0xFF, 0, 0, 0xFF⟩,
      .texel ⟨0xFF, 0xFF, 0xFF, 0xFF⟩, .texel ⟨0, 0xFF, 0, 0xFF⟩] := by decide +kernel

/-- V42-5, bilinear, and the centre average with `mid_texel`. -/
theorem test_texCycle_bilinear : ([(0x20, 0x20), (0x70, 0), (0x30, 0x10), (0x38, 0x18), (0x10, 0x10)] :
      List (BitVec 16 × BitVec 16)).map
      (fun c => result (.texCycle (zeroColor 9) c.1 c.2 0 false) { textured with gs.om := 5 <<< 43 }) =
    [.texel ⟨0x84, 0x84, 0x84, 0xFF⟩, .texel ⟨0xFF, 0x80, 0x80, 0xFF⟩, .texel ⟨0x42, 0x42, 0xC2, 0xFF⟩,
      .texel ⟨0x42, 0x42, 0x82, 0xFF⟩, .texel ⟨0, 0x80, 0, 0xFF⟩] ∧
    result (.texCycle (zeroColor 9) 0x10 0x10 0 false) { textured with gs.om := 7 <<< 43 } =
      .texel ⟨0x61, 0x61, 0x21, 0xFF⟩ := by decide +kernel

/-- R277. -/
theorem test_armPoint : result (.armPoint ⟨1, 2, 3, 4⟩) boot = .texel ⟨1, 2, 3, 4⟩ ∧
    result (.armPointConvert ⟨1, 2, 3, 4⟩) boot = .texel ⟨3, 3, 3, 3⟩ := by decide +kernel

/-- A quad whose taps are grey. -/
def greyQuad (a b c d : BitVec 9) : Quad := ⟨⟨a, a, a, a⟩, ⟨b, b, b, b⟩, ⟨c, c, c, c⟩, ⟨d, d, d, d⟩⟩

/-- R278, by hand: lower triangle `0x10 + (8 * 0x20 + 4 * 0x40 + 16) / 32`; upper triangle
`0x80 + (8 * (0x50 - 0x80) + 4 * (0x30 - 0x80) + 16) / 32`. -/
theorem test_armLerp : result (.armLerp (greyQuad 0x10 0x30 0x50 0x80) 8 4 false false) boot = .texel ⟨0x20, 0x20, 0x20, 0x20⟩ ∧
    result (.armLerp (greyQuad 0x10 0x30 0x50 0x80) 24 28 false false) boot = .texel ⟨0x6A, 0x6A, 0x6A, 0x6A⟩ := by
  decide +kernel

/-- R279, by hand: weights 64 and -64, `0x20 + (64 * 0x80 - 64 * 0x40 + 128) / 256`. -/
theorem test_armLerpConvert : result (.armLerpConvert ⟨0x40, 0x1C0, 0x20, 0⟩ (greyQuad 0 0x80 0x40 0) false) boot =
    .texel ⟨0x30, 0x30, 0x30, 0x30⟩ := by decide +kernel

/-- R280, by hand: K0 = 128, K1 = -32, K2 = -64, K3 = 64 on u = 0x10, v = 0x20, y = 0x50. -/
theorem test_armYuv : let m := { boot with gs.sca := ⟨0, 0, 0, 0, 128, 0x1E0, 0x1C0, 64, 0, 0⟩ }
    result (.armYuv1 (zeroColor 9) ⟨0x10, 0x20, 0x50, 0⟩ false) m = .texel ⟨0x60, 0x46, 0x54, 0x50⟩ ∧
    result (.armYuv4 (zeroColor 9) ⟨⟨0x10, 0x20, 0, 0⟩, zeroColor 9, zeroColor 9, ⟨0, 0, 0x50, 0⟩⟩ false true false) m =
      .texel ⟨0x60, 0x46, 0x54, 0x50⟩ := by decide +kernel

/-- V42-6 and R284: with LOD off the tile is the command's and the fraction stays; R286: the second tile is the next one. -/
theorem test_lod_off : result (.lod1cycle 0x20 0x40010 { texOps with tilenum := 7 }) boot = .lod1 0x20 0x7FFF 7 0 ∧
    result (.lod2cycle 0x20 0 { texOps with tilenum := 7 }) boot = .lod2 0x20 0 7 0 0 ∧
    result (.lodCopy 0x20 0x1FFE0 3) boot = .lodCopy 0x20 0xFFE0 3 := by decide +kernel

/-- R281, R282, R284, by hand: a step of 4 texels along the line is LOD 0x80, level 2, fraction 0; of 6 texels, fraction 0x80. -/
theorem test_lod_on : let m := { boot with gs.om := 1 <<< 48, gs.der.dolod := true, gs.misc.maxLevel := 5 }
    result (.lod1cycle 0 0 { texOps with dsinc := 0x800000 }) m = .lod1 0 0 2 0 ∧
    result (.lod2cycle 0 0 { texOps with dsinc := 0xC00000 }) m = .lod2 0 0 2 3 0x80 := by decide +kernel

/-- R288, R576: LOD in copy mode is refused. -/
theorem test_lodCopy_refused : refusal (.lodCopy 0 0 0) { boot with gs.om := 1 <<< 48 } = some .copyLevelOfDetail := by
  decide +kernel

/-! ### Texture memory (vectors of 2.4) -/

/-- V43-1: both rows of the texture through the selected arm, which is `TMEM_FETCH_RGBA16`. -/
theorem test_tmemFetch1 : ([(0, 0), (1, 0), (2, 0), (0, 1), (1, 1), (2, 1), (3, 1)] : List (BitVec 13 × BitVec 13)).map
      (fun c => result (.tmemFetch1 0 c.1 c.2) textured) =
    [.texel ⟨0xFF, 0, 0, 0xFF⟩, .texel ⟨0, 0xFF, 0, 0xFF⟩, .texel ⟨0, 0, 0xFF, 0xFF⟩, .texel ⟨0, 0, 0, 0xFF⟩,
      .texel ⟨0x84, 0x84, 0x84, 0xFF⟩, .texel ⟨0x42, 0x42, 0x42, 0xFF⟩, .texel ⟨0xC6, 0xC6, 0xC6, 0xFF⟩] := by decide +kernel

/-- V42-5, R304: the quad at (1, 0) with steps (1, 1). -/
theorem test_tmemFetchQuad : result (.tmemFetchQuad 0 1 1 0 1 true) textured =
    .quad ⟨⟨0, 0xFF, 0, 0xFF⟩, ⟨0, 0, 0xFF, 0xFF⟩, ⟨0x84, 0x84, 0x84, 0xFF⟩, ⟨0x42, 0x42, 0x42, 0xFF⟩⟩ := by decide +kernel

/-- A state with four bytes in the low half of TMEM, one in the high half, and palette 2 in tile 0. -/
def tmemState (b0 b1 b2 b3 h0 h1 : Byte) : State :=
  { boot with
    tmem := [(0, b0), (1, b1), (2, b2), (3, b3), (0x800, h0), (0x801, h1)]
    gs.tiles := boot.gs.tiles.set 0 { Tile.reset with palette := 2 } }

/-- V43-3, and the other 16-bit and 32-bit arms by hand (R310, R314, R317, R318, R321, R322, R325). -/
theorem test_fetch_wide : let m := tmemState 0x80 0xFF 0x12 0x34 0x56 0x78
    result (.tmemFetchRgba16 0 0 0) (tmemState 0xF8 0 0 0 0 0) = .texel ⟨0xFF, 0, 0, 0⟩ ∧
    result (.tmemFetchRgba32 0 0 0) m = .texel ⟨0x80, 0xFF, 0x56, 0x78⟩ ∧
    result (.tmemFetchIa16 0 0 0) m = .texel ⟨0x80, 0x80, 0x80, 0xFF⟩ ∧
    result (.tmemFetchCi16 0 1 0) m = .texel ⟨0x12, 0x34, 0x12, 0⟩ ∧ result (.tmemFetchI16 0 0 0) m = .texel ⟨0x80, 0xFF, 0x80, 0xFF⟩ ∧
    result (.tmemFetchCi32 0 1 0) m = .texel ⟨0x12, 0x34, 0x12, 0⟩ ∧ result (.tmemFetchIa32 0 0 0) m = .texel ⟨0x80, 0xFF, 0x80, 0xFF⟩ ∧
    result (.tmemFetchI32 0 1 0) m = .texel ⟨0x12, 0x34, 0x12, 0⟩ := by decide +kernel

/-- R313, by hand: chroma bytes 0x90 and 0x70 lose 0x80, luma is the byte in the high half. -/
theorem test_fetch_yuv : result (.tmemFetchYuv16 0 0 0) (tmemState 0x90 0x70 0 0 0x55 0x66) = .texel ⟨0x10, 0x1F0, 0x55, 0x55⟩ ∧
    result (.tmemFetchYuv16 0 1 0) (tmemState 0x90 0x70 0 0 0x55 0x66) = .texel ⟨0x10, 0x1F0, 0x66, 0x66⟩ ∧
    result (.tmemFetchYuv32 0 0 0) (tmemState 0x90 0x70 0 0 0x55 0x66) = .texel ⟨0x10, 0x1F0, 0x55, 0x55⟩ := by decide +kernel

/-- V43-2: the 8-bit arms. -/
theorem test_fetch_bytes : let m := tmemState 0xA5 0x7B 0 0 0 0
    result (.tmemFetchIa8 0 0 0) m = .texel ⟨0xAA, 0xAA, 0xAA, 0x55⟩ ∧ result (.tmemFetchI8 0 1 0) m = .texel ⟨0x7B, 0x7B, 0x7B, 0x7B⟩ ∧
    result (.tmemFetchRgba8 0 1 0) m = .texel ⟨0x7B, 0x7B, 0x7B, 0x7B⟩ ∧ result (.tmemFetchCi8 0 1 0) m = .texel ⟨0x7B, 0x7B, 0x7B, 0x7B⟩ ∧
    result (.tmemFetchYuv8 0 1 0) m = .texel ⟨0x7B, 0x7B, 0x7B, 0x7B⟩ := by decide +kernel

/-- V43-2: the 4-bit arms; an even texel is the high nibble. -/
theorem test_fetch_nibbles : let m := tmemState 0xC3 0xB0 0 0 0 0
    result (.tmemFetchRgba4 0 0 0) m = .texel ⟨0xCC, 0xCC, 0xCC, 0xCC⟩ ∧ result (.tmemFetchCi4 0 1 0) m = .texel ⟨0x23, 0x23, 0x23, 0x23⟩ ∧
    result (.tmemFetchIa4 0 2 0) m = .texel ⟨0xB6, 0xB6, 0xB6, 0xFF⟩ ∧ result (.tmemFetchI4 0 1 0) m = .texel ⟨0x33, 0x33, 0x33, 0x33⟩ ∧
    result (.tmemFetchYuv4 0 0 0) m = .texel ⟨0xCC, 0xCC, 0xCC, 0xCC⟩ := by decide +kernel

/-- A 4-bit texel 1 in a tile of palette 2, and entry 0x21 of the lookup table at byte `0x800 + 8 * 0x21`. -/
def tlutState (om : BitVec 64) : State :=
  { boot with
    tmem := [(0, 0x10), (0x908, 0xF8), (0x909, 0x01), (0x90A, 0x80), (0x90B, 0x7F)], gs.om := om
    gs.tiles := boot.gs.tiles.set 0 { Tile.reset with palette := 2 } }

/-- The taps of a quad result. -/
def taps : Ret → List (Color 9)
  | .quad q => [q.q0, q.q1, q.q2, q.q3]
  | _ => []

/-- R330, R334, by hand: nearest, the four banks of entry 0x21 as RGBA, and with `tlut_type` as intensity and alpha. -/
theorem test_fetch_tlut : taps (result (.tmemFetchTlut 0 0 1 0 1 false) (tlutState (1 <<< 47))) =
      [⟨0xFF, 0, 0, 0xFF⟩, ⟨0x84, 0x08, 0xFF, 0xFF⟩, ⟨0, 0, 0, 0⟩, ⟨0, 0, 0, 0⟩] ∧
    taps (result (.tmemFetchTlut 0 0 1 0 1 false) (tlutState (3 <<< 46))) =
      [⟨0xF8, 0xF8, 0xF8, 0x01⟩, ⟨0x80, 0x80, 0x80, 0x7F⟩, ⟨0, 0, 0, 0⟩, ⟨0, 0, 0, 0⟩] := by decide +kernel

/-- R340: texel `p` of the group, from the tile, and through the table. -/
theorem test_copyTexel16 : result (.copyTexel16 0 0x20 0 0) textured = .texel16 0x07C1 ∧
    result (.copyTexel16 0 0x20 0 1) textured = .texel16 0x003F ∧ result (.copyTexel16 0 0 0 0) (tlutState (1 <<< 47)) = .texel16 0xF801 ∧
    refusal (.copyTexel16 0 0 0 0) (tlutState 0) = some .copyTexelSize := by decide +kernel

/-- A state whose tile 0 has the reserved format 6. -/
def reservedState : State := after (.setTile { tileCmd with format := 6 }) boot

/-- R160, R302: a reserved format is refused when a texel is fetched, not when it is set. -/
theorem test_reserved_format : refusal (.tmemFetch1 0 0 0) reservedState = some .reservedTileFormat ∧
    refusal (.texCycle (zeroColor 9) 0 0 0 false) reservedState = some .reservedTileFormat ∧
    isNext (exec (.setTile { tileCmd with format := 6 }) boot) = true := by decide +kernel

/-! ### Combiner (vectors of 2.5) -/

/-- V44-1, V44-2. -/
theorem test_combineEq : ([0, 0x80, 0xFF, 0x100, 0x1FF] : List (BitVec 9)).map (fun d => result (.combineEqRgb 0 0 0 d true) boot) =
      [.eqRgb 0x80, .eqRgb 0x8080, .eqRgb 0xFF80, .eqRgb 0x10080, .eqRgb 0x1FF80] ∧
    ([(0x100, 0, 0x80, 0), (0xFF, 0, 0xFF, 0xFF), (0, 0xFF, 0xFF, 0), (0, 2, 0x80, 0)] :
      List (BitVec 9 × BitVec 9 × BitVec 9 × BitVec 9)).map
      (fun x => result (.combineEqRgb x.1 x.2.1 x.2.2.1 x.2.2.2 false) boot) =
      [.eqRgb 0x8080, .eqRgb 0x1FD81, .eqRgb 0x1027F, .eqRgb 0x1FF80] ∧
    ([0xFF, 0x100, 0x1FF] : List (BitVec 9)).map (fun d => result (.combineEqAlpha 0 0 0 d true) boot) =
      [.eqAlpha 0xFF, .eqAlpha 0x100, .eqAlpha 0x1FF] := by decide +kernel

/-- The shade colour of P2. -/
def shadeState (cc : BitVec 64) : State := { boot with gs.cc := cc, gs.col.shade := ⟨0x80, 0x40, 0x20, 0xFF⟩ }

/-- V44-3. -/
theorem test_combine1cycle : let t := after (.combine1cycle 0 8) (shadeState 0x0000011008FC013C)
    t.gs.col.pixel = ⟨0x80, 0x40, 0x20, 0xFF⟩ ∧ t.gs.col.combined = ⟨0x80, 0x40, 0x20, 0xFF⟩ ∧ t.ret = .cvg 8 := by decide +kernel

/-- R362: shade, then the combined colour; with alpha compare the alpha of the first cycle. -/
theorem test_combine2cycle : (after (.combine2cycle 0 8) (shadeState shadeThenCombined)).gs.col.pixel = ⟨0x80, 0x40, 0x20, 0xFF⟩ ∧
    result (.combine2cycle 0 8) (shadeState shadeThenCombined) = .combine2 0 8 ∧
    result (.combine2cycle 0 8) { shadeState shadeThenCombined with gs.om := 1 } = .combine2 0xFF 8 := by decide +kernel

/-- V44-6, V44-7. -/
theorem test_finishCycle : ([(0xFE, 1), (0xFE, 7), (0x10, 7), (0xFF, 0)] : List (BitVec 9 × BitVec 3)).map
      (fun x => (after (.finishCycle x.2 8 ⟨0, 0, 0⟩) { boot with gs.col.combined.a := x.1 }).gs.col.pixel.a) =
      [0xFF, 0xFF, 0x17, 0xFF] ∧
    ([0x80, 0xFF, 0x1F] : List (BitVec 9)).map
      (fun a => result (.finishCycle 0 8 ⟨0, 0, 0⟩) { boot with gs.om := 1 <<< 12, gs.col.combined.a := a }) =
      [.cvg 4, .cvg 8, .cvg 0] := by decide +kernel

/-- V44-5. -/
theorem test_chromaKey : ([(0x20, 0x80), (0x18, 0x80), (0x08, 0x80), (0x20, 0x1080)] : List (BitVec 12 × BitVec 17)).map
      (fun x => result (.chromaKey ⟨x.2, x.2, x.2⟩) { boot with gs.col.keyWidth := ⟨x.1, x.1, x.1⟩ }) =
    [.key 0xFF, .key 0xFF, .key 0, .key 0] := by decide +kernel

/-! ### Blender (vectors of 2.6) -/

/-- V45-1. -/
theorem test_bldiv : ([0x0000, 0x07FF, 0x0864, 0x10C8, 0x2200, 0x23E8, 0x4000, 0x43FF, 0x47F8, 0x4190, 0x7800, 0x7FFF] :
      List (BitVec 15)).map bldiv = [0, 0, 100, 100, 0x80, 250, 0, 0x7F, 255, 50, 0xAA, 0xAA] := by decide +kernel

/-- Inputs of V45-2: pixel and its alpha in 1A and 1B, memory in 2A, the inverse in 2B, in the given mode. -/
def blendState (om : BitVec 64) : State :=
  { boot with
    gs.om := om, gs.col.pixel := ⟨200, 0, 0, 0x80⟩, gs.col.memory := ⟨0, 0, 100, 0xE0⟩
    gs.col.invPixelA := 0x7F }

/-- V45-2 and V45-3; `BLEND_EQ_C0_2` has the inputs of cycle 0 and divides by 32. -/
theorem test_blendEq : result (.blendEq false) (blendState 0x404000) = .rgb ⟨100, 0, 50⟩ ∧
    result (.blendEq false) (blendState 0x400000) = .rgb ⟨100, 0, 50⟩ ∧ result .blendEqC02 (blendState 0x400000) = .rgb ⟨100, 0, 50⟩ := by
  decide +kernel

/-- V45-5. -/
theorem test_alphaCompare : let m := { boot with gs.om := 1, gs.col.blend.a := 0x80 }
    result (.alphaCompare 0x7F) m = .bool false ∧ result (.alphaCompare 0x80) m = .bool true ∧
    result (.alphaCompare 0) boot = .bool true ∧ result (.alphaCompare 0x28) { boot with gs.om := 3 } = .bool false ∧
    result (.alphaCompare 0x29) { boot with gs.om := 3 } = .bool true ∧
    (after (.alphaCompare 0) { boot with gs.om := 3 }).gs.hid.iseed = 0x29E2C0 := by decide +kernel

/-- V45-2 dithered off, V45-4, V45-6: blended, unblended, and rejected by coverage. -/
theorem test_blend1cycle : let m := blendState 0xC0004040C0
    result (.blend1cycle ⟨0, true, true, 8, true⟩) { blendState 0xC000404000 with gs.col.invPixelA := 0 } = .blended true ⟨100, 0, 50⟩ ∧
    result (.blend1cycle ⟨0, false, false, 8, true⟩) (blendState 0xC000400000) = .blended true ⟨200, 0, 0⟩ ∧
    result (.blend1cycle ⟨0, false, false, 4, false⟩) (blendState 0xC000400000) = .blended false ⟨0, 0, 0⟩ ∧
    result (.blend1cycle ⟨0, true, false, 0, true⟩) (blendState 0xC000404008) = .blended false ⟨0, 0, 0⟩ ∧
    result (.blend1cycle ⟨0, true, false, 8, true⟩) m = .blended true ⟨0, 0, 100⟩ := by decide +kernel

/-- R406, by hand: the first cycle blends with the previous pixel's memory colour, the second passes 1A, the blended pixel; the
memory colour is this pixel's on each path. -/
theorem test_blend2cycle : let m := { blendState 0x1000C000400000 with gs.col.preMemory := ⟨9, 9, 9, 0xE0⟩ }
    let t := after (.blend2cycle ⟨0, false, true, 8, true⟩ 0) m
    t.ret = .blended true ⟨100, 0, 50⟩ ∧ t.gs.col.memory = ⟨9, 9, 9, 0xE0⟩ ∧
    (after (.blend2cycle ⟨0, false, true, 8, false⟩ 0) m).gs.col.memory = ⟨9, 9, 9, 0xE0⟩ ∧
    result (.blend2cycle ⟨0, false, true, 8, false⟩ 0) m = .blended false ⟨0, 0, 0⟩ := by decide +kernel

/-! ### Z buffer (vectors of 2.7) -/

/-- V46-1, V46-2. -/
theorem test_zTables : ([0, 0x10, 0x8000, 0x10000, 0x1FFFF, 0x20000, 0x2FFFF, 0x30000, 0x38000, 0x3C000, 0x3E000, 0x3F000, 0x3F800,
      0x3FFFF] : List (BitVec 18)).map zCompress = [0, 0, 0x0800, 0x1000, 0x1FFC, 0x2000, 0x3FFC, 0x4000, 0x6000, 0x8000, 0xA000, 0xC000,
      0xE000, 0xFFFC] ∧
    ([0x0000, 0x0004, 0x1FFC, 0x2000, 0x4000, 0x8000, 0xC000, 0xE000, 0xFFFC] : List (BitVec 16)).map zDecompress =
      [0, 0x40, 0x1FFC0, 0x20000, 0x30000, 0x3C000, 0x3F000, 0x3F800, 0x3FFFF] := by decide +kernel

/-- V46-3. -/
theorem test_dzCompress : ([0, 1, 2, 3, 4, 8, 0x10, 0x80, 0x100, 0x8000, 0xFFFF] : List (BitVec 16)).map dzCompress =
    [0, 0, 1, 1, 2, 3, 4, 7, 8, 15, 15] := by decide +kernel

/-- One Z word at unit 0x1000. -/
def zState (om : BitVec 64) (hi lo : Byte) : State := { boot with gs.om := om, ram := [(0x2000, hi), (0x2001, lo)] }

/-- The operands of V46-4: `dzpix = 1`, full coverage over full coverage. -/
def zOps (sz : BitVec 18) (cvg : BitVec 4) (memcvg : BitVec 3) : ZOperands := ⟨0x1000, sz, 1, 0, cvg, memcvg⟩

/-- V46-4. -/
theorem test_zcompare : result (.zcompare (zOps 0x3FFFF 8 7)) (zState 0x10 0xFF 0xFC) = .zpass true 8 ∧
    result (.zcompare (zOps 0x8000 8 7)) { boot with gs.om := 0x10, ram := [(0x2000, 0x10)] } = .zpass true 8 ∧
    result (.zcompare (zOps 0x10000 8 7)) { boot with gs.om := 0x10, ram := [(0x2000, 0x08)] } = .zpass false 8 ∧
    result (.zcompare (zOps 0x10000 4 0)) { boot with gs.om := 0x10, ram := [(0x2000, 0x08)] } = .zpass false 4 ∧
    result (.zcompare (zOps 0x8040 4 0)) { boot with gs.om := 0x10, ram := [(0x2000, 0x08)] } = .zpass true 4 := by decide +kernel

/-- V46-6, R432: no comparison; the past raw code becomes 0xF, overflow is computed from the coverages. -/
theorem test_zcompareDisabled : let t := after (.zcompareDisabled (zOps 0 8 7)) boot
    t.ret = .zpass true 8 ∧ t.gs.hid.pastrawdzmem = 15 ∧ t.gs.flags.prewrap = true ∧ t.gs.flags.blendEn = false ∧
    result (.zcompare (zOps 0 8 7)) boot = .zpass true 8 := by decide +kernel

/-- V46-7 and the other arms by hand (R436 to R439). -/
theorem test_zModes : let far : ZTerms := ⟨false, true, true, false, false⟩
    result (.zcompareTransparent ⟨false, false, false, true, false⟩) boot = .bool true ∧
    result (.zcompareTransparent far) boot = .bool false ∧ result (.zcompareOpaque far) boot = .bool true ∧
    result (.zcompareOpaque { far with overflow := true }) boot = .bool false ∧ result (.zcompareDecal far) boot = .bool true ∧
    result (.zcompareDecal { far with max := true }) boot = .bool false ∧
    result (.zcompareInterpenetrating far 0 0 0 8) boot = .zpass true 8 := by decide +kernel

/-- R439, by hand: `dz = 4` shifts by 2, `0x44 - 0x40 = 4` of coverage 8 leaves 4. -/
theorem test_zcompareInterpenetrating :
    result (.zcompareInterpenetrating ⟨true, true, false, false, true⟩ 0x110 0x100 4 8) boot = .zpass true 4 := by decide +kernel

/-- R440 and V46-4 (i), R423: word and hidden bits, and the code 13 split over both. -/
theorem test_zStore : bytesAt (after (.zStore 0x1000 0x10000 0) boot) 0x2000 2 = [0x10, 0x00] ∧
    bytesAt (after (.zStore 0x1000 0x10000 13) boot) 0x2000 2 = [0x10, 0x03] ∧
    (after (.zStore 0x1000 0x10000 13) boot).hidden = [(0x1000, 1)] ∧
    result (.zLoad 0x1000) (after (.zStore 0x1000 0x10000 13) boot) = .zword 0x1003 1 := by decide +kernel

/-- R434, by hand: codes 5 and 2 give 3 and 0, a difference of 9 is cut to 4; the past pair uses the last raw code. -/
theorem test_shifters : let m := { boot with
      gs.der.realShiftersNeeded := true, gs.der.interpixelShiftersNeeded := true, gs.hid.pastrawdzmem := 15 }
    (after (.shifters 5 2) m).gs.hid = ⟨1, 3, 0, 0, 4, 2⟩ := by decide +kernel

/-! ### Coverage, random numbers and dither (vectors of 2.8) -/

/-- V47-2: the spans of P4. -/
theorem test_cvgBuild : let m := after (.edgewalk p4Tri) p4State
    (List.range 5).map (after (.cvgBuild 0 true) m).cvgAt = [0xFF, 0xFF, 0xFF, 0xE8, 0] ∧
    (List.range 4).map (after (.cvgBuild 1 true) m).cvgAt = [0xFF, 0xFF, 0xE8, 0] := by decide +kernel

/-- V47-1. -/
theorem test_cvgLookup : ([0x00, 0x80, 0x01, 0x10, 0xFF, 0xE8, 0x0F, 0xF0, 0xA5, 0x5A] : List Byte).map
      (fun m => result (.cvgLookup m) boot) =
    [.lookup 0 0 0 false, .lookup 0 0 1 true, .lookup 3 3 1 false, .lookup 3 1 1 false, .lookup 0 0 8 true, .lookup 0 0 4 true,
      .lookup 0 2 4 false, .lookup 0 0 4 true, .lookup 0 0 4 true, .lookup 1 1 4 false] := by decide +kernel

/-- V47-3: the first numbers from seed 1, each from the seed the step before left. -/
theorem test_irand : result .irand boot = .random 0x29 ∧ (after .irand boot).gs.hid.iseed = 0x29E2C0 ∧
    result .irand (after .irand boot) = .random 0x4823 := by decide +kernel

/-- V47-5: the two matrices in `rgb_alpha_dither` arms 3 and 7. -/
theorem test_ditherNoise : ([(0, 0), (1, 0), (2, 0), (3, 0), (0, 1), (1, 1), (2, 1), (3, 1)] : List (BitVec 12 × BitVec 12)).map
      (fun c => result (.ditherNoise c.1 c.2 0 0) { boot with gs.der.ditherLevel := 1, gs.der.rgbAlphaDither := 3 }) =
      [.dither 0 0, .dither 6 0, .dither 1 0, .dither 7 0, .dither 4 0, .dither 2 0, .dither 5 0, .dither 3 0] ∧
    ([(0, 0), (1, 0), (2, 0), (3, 0), (0, 1), (1, 1)] : List (BitVec 12 × BitVec 12)).map
      (fun c => result (.ditherNoise c.1 c.2 0 0) { boot with gs.der.ditherLevel := 1, gs.der.rgbAlphaDither := 7 }) =
      [.dither 0 0, .dither 4 0, .dither 1 0, .dither 5 0, .dither 4 0, .dither 0 0] := by decide +kernel

/-- V47-6, R472: at level 2 the old values stay and the generator does not move. -/
theorem test_ditherNoise_off : let t := after (.ditherNoise 1 0 7 3) { boot with gs.der.ditherLevel := 2 }
    t.ret = .dither 7 3 ∧ t.gs.hid.iseed = 1 := by decide +kernel

/-- V47-4. -/
theorem test_rgbDither : result (.rgbDither 100 50 149 0) boot = .rgb ⟨104, 56, 152⟩ ∧
    result (.rgbDither 100 50 149 4) boot = .rgb ⟨100, 50, 152⟩ ∧ result (.rgbDither 248 255 7 0) boot = .rgb ⟨248, 255, 8⟩ ∧
    result (.rgbDither 247 7 8 7) boot = .rgb ⟨247, 7, 8⟩ ∧ result (.rgbDither 247 7 8 6) boot = .rgb ⟨248, 8, 8⟩ ∧
    result (.rgbDither 100 50 149 0xCC) { boot with gs.om := 0x8000000000 } = .rgb ⟨100, 56, 152⟩ := by decide +kernel

/-! ### Framebuffer (vectors of 2.9) -/

/-- A 16-bit RGBA image at 0x1000. -/
def fbState (om : BitVec 64) : State := { boot with gs.om := om, gs.img := ⟨0, 2, 4, 0x1000, 0⟩ }

/-- V48-2. -/
theorem test_fbRead16 : let t := after (.fbRead16 0 false) { fbState 0x40 with ram := [(0x1001, 0x3F)], hidden := [(0x800, 3)] }
    t.gs.col.memory = ⟨0, 0, 0xF8, 0xE0⟩ ∧ t.ret = .memcvg 7 ∧
    (after (.fbRead16 0 false) { fbState 0x40 with ram := [(0x1000, 0xF8)] }).gs.col.memory = ⟨0xF8, 0, 0, 0⟩ ∧
    (after (.fbRead16 0 true) (fbState 0)).gs.col.preMemory = ⟨0, 0, 0, 0xE0⟩ ∧ result (.fbRead16 0 false) (fbState 0) = .memcvg 7 := by
  decide +kernel

/-- R492, R494, R498, by hand. -/
theorem test_fbRead : let m := { fbState 0x40 with ram := [(0x1000, 0x11), (0x1001, 0x22), (0x1002, 0x33), (0x1003, 0x5F)] }
    (after (.fbRead4 0 false) m).gs.col.memory = ⟨0, 0, 0, 0xE0⟩ ∧ (after (.fbRead8 1 false) m).gs.col.memory = ⟨0x22, 0x22, 0x22, 0xE0⟩ ∧
    (after (.fbRead32 0 false) m).gs.col.memory = ⟨0x11, 0x22, 0x33, 0x40⟩ ∧ result (.fbRead32 0 false) m = .memcvg 2 := by
  decide +kernel

/-- V48-4. -/
theorem test_finalCvg : result (.finalCvg false 8 7) boot = .memcvg 7 ∧ result (.finalCvg true 4 7) boot = .memcvg 7 ∧
    result (.finalCvg true 4 1) boot = .memcvg 5 ∧ result (.finalCvg false 4 7) (fbState 0x100) = .memcvg 3 ∧
    result (.finalCvg true 0 0) (fbState 0x200) = .memcvg 7 ∧ result (.finalCvg true 8 5) (fbState 0x300) = .memcvg 5 := by
  decide +kernel

/-- The operands of a write of full coverage. -/
def fbOps (r g b : BitVec 8) : FbOperands := ⟨0, r, g, b, false, 8, 7⟩

/-- V48-1; V48-5: the index wraps at the top of RDRAM. -/
theorem test_fbWrite16 : bytesAt (after (.fbWrite16 (fbOps 0x80 0x40 0x20)) (fbState 0)) 0x1000 2 = [0x82, 0x09] ∧
    bytesAt (after (.fbWrite16 (fbOps 104 56 152)) (fbState 0)) 0x1000 2 = [0x69, 0xE7] ∧
    (after (.fbWrite16 ⟨0, 0, 0, 0, false, 6, 0⟩) (fbState 0)).hidden = [(0x800, 1)] ∧
    bytesAt (after (.fbWrite16 { fbOps 200 0 0 with curpixel := 1 }) { fbState 0 with gs.img.fbAddress := 0xFFFFE }) 0 2 =
      [0xC8, 0x01] := by decide +kernel

/-- R502, R504, R508, by hand. -/
theorem test_fbWrite : bytesAt (after (.fbWrite8 { fbOps 0x81 0x40 0x20 with curpixel := 1 }) (fbState 0)) 0x1000 2 = [0, 0x81] ∧
    (after (.fbWrite8 { fbOps 0x81 0x40 0x20 with curpixel := 1 }) (fbState 0)).hidden = [(0x800, 3)] ∧
    bytesAt (after (.fbWrite4 (fbOps 1 2 3)) { fbState 0 with ram := [(0x1000, 9), (0x1001, 9)] }) 0x1000 2 = [0, 9] ∧
    bytesAt (after (.fbWrite32 (fbOps 0x80 0x41 0x20)) (fbState 0)) 0x1000 4 = [0x80, 0x41, 0x20, 0xE0] ∧
    (after (.fbWrite32 (fbOps 0x80 0x41 0x20)) (fbState 0)).hidden = [(0x800, 3)] := by decide +kernel

/-- V48-3. -/
theorem test_fbFill : bytesAt (after (.fbFill16 0) { fbState 0 with gs.misc.fillColor := 0x0000FF00 }) 0x1000 2 = [0x00, 0x3E] ∧
    (after (.fbFill16 0) { fbState 0 with gs.misc.fillColor := 0x0000FF00 }).hidden = [] ∧
    (after (.fbFill16 0) { fbState 0 with gs.misc.fillColor := 0x00FF00FF }).hidden = [(0x800, 3)] ∧
    bytesAt (after (.fbFill32 0) { fbState 0 with gs.misc.fillColor := 0x12345678 }) 0x1000 4 = [0x12, 0x34, 0x56, 0x78] ∧
    (after (.fbFill32 0) { fbState 0 with gs.misc.fillColor := 0x12345678 }).hidden = [] ∧
    bytesAt (after (.fbFill8 0) { fbState 0 with gs.misc.fillColor := 0xAB000000 }) 0x1000 1 = [0xAB] := by decide +kernel

/-! ### Witnesses: states and operands that meet the hypotheses of each obligation, clause by clause -/

/-- An operation that answers `t` is equal to it. -/
theorem exec_eq {i : Instr} {s t : State} (h : isNext (exec i s) = true) (ht : after i s = t) : exec i s = .next t :=
  ht ▸ exec_after h

/-- Fetchable tiles, checked tile by tile. -/
theorem fetchable_of {s : State} (h : ∀ n : BitVec 3, (s.tile n).format.toNat < 5 ∧ (s.tile n).notlutswitch.toNat < 20) :
    TilesFetchable s := h

theorem witness_EncodedRecordDecodes : (Instr.setPrimDepth 0x8001 0x1234).wf = true ∧
    encode (.setPrimDepth 0x8001 0x1234) = some [0x2E, 0x80, 0x01, 0x12, 0x34] ∧ (Instr.drawTri p5Tri).wf = true ∧
    (encode (.drawTri p5Tri)).isSome = true := by decide +kernel

/-- The tags of R121 and log entry 2. -/
def tags : List Nat :=
  [0x08, 0x09, 0x0A, 0x0B, 0x0C, 0x0D, 0x0E, 0x0F, 0x2A, 0x2B, 0x2C, 0x2D, 0x2E, 0x2F, 0x32, 0x34, 0x35, 0x37, 0x38, 0x39, 0x3A,
    0x3B, 0x3C, 0x3E, 0x3F, 0x40, 0x41]

theorem witness_TagSelectsOperation : (0x08#8).toNat ∈ tags ∧ (0x41#8).toNat ∈ tags ∧ (0x07#8).toNat ∉ tags ∧ (0x10#8).toNat ∉ tags ∧
    (0x42#8).toNat ∉ tags ∧ (0x08#8).toNat / 8 = 1 ∧ (0x0F#8).toNat / 8 = 1 := by decide

theorem witness_TagSelectsOperation_decodes : decode [0x37, 1, 2, 3, 4] = .ok (.setFillColor 0x01020304) := rfl

theorem witness_StepRunsTheDecodedRecord : boot.gs.seq.phase = .idle ∧
    ({ boot with port := [[0x37, 1, 2, 3, 4], []] } : State).port = [0x37, 1, 2, 3, 4] :: [[]] ∧
    decode [0x37, 1, 2, 3, 4] = .ok (.setFillColor 0x01020304) ∧ decodeTableWord 8 0x37 = some (.setFillColor 0) := ⟨rfl, rfl, rfl, rfl⟩

theorem witness_StepWithoutCommand : ({ boot with gs.seq.phase := .render } : State).gs.seq.phase ≠ .idle ∧ boot.port = [] ∧
    ({ boot with port := [[0x36, 1]] } : State).port = [0x36, 1] :: [] ∧ decode [0x36, 1] = .error (.unknownTag 0x36) :=
  ⟨by decide, rfl, rfl, rfl⟩

/-- P1 with its `FILL_RECT` at the port. -/
def p1Ready : State := { p1State with port := [[0x40, 0, 0x10, 0, 4, 0, 0, 0, 0]] }

/-- The premise of `StepKeepsInvariant` holds before a step that draws. -/
theorem witness_StepKeepsInvariant : Inv p1Ready ∧ isNext (step p1Ready) = true ∧
    bytesAt (stepped p1State [0x40, 0, 0x10, 0, 4, 0, 0, 0, 0]) 0x1000 2 = [0xF8, 1] := by
  refine ⟨⟨?_, ⟨by decide +kernel, .inl rfl⟩, ?_⟩, by decide +kernel, by decide +kernel⟩ <;> constructor <;> decide +kernel

theorem witness_CrashFlagIsRaisedExactlyByItsCauses :
    isNext (exec (.fillRect 0x10 4 0 0) p1State) = true ∧ crashes (.fillRect 0x10 4 0 0) p1State = false ∧
    isNext (exec (.renderCopy 0 0 0 true) { p1State with gs.img.fbSize := 3 }) = true ∧
    crashes (.renderCopy 0 0 0 true) { p1State with gs.img.fbSize := 3 } = true := by decide +kernel

theorem witness_CrashAbandonsCommand : crashes (.fillRect 0x10 4 0 0) { p1State with gs.img.fbSize := 0 } = true ∧
    crashes (.renderFill 0 0 true) { p1State with gs.om := 0x10 } = true ∧
    crashes (.renderSpans 0 0 0 true) { p1State with gs.om := 0x0030000000000020 } = true ∧
    crashes (.drawTri noTri) { p1State with gs.om := 0x0020000000000000, gs.img.fbSize := 3 } = true := by decide +kernel

theorem witness_MemoryIsWrittenOnlyByItsOperations : isNext (exec (.cvgBuild 0 true) walked) = true ∧
    (∀ tile sl tl sh th, Instr.cvgBuild 0 true ≠ .loadTile tile sl tl sh th) ∧ writesRam (.cvgBuild 0 true) = false ∧
    writesRam (.loadTile 0 0 0 0 0) = false ∧ writesRam (.zStore 0 0 0) = true :=
  ⟨by decide +kernel, by simp, rfl, rfl, rfl⟩

/-- Each clause of `ControlRegistersChangeOnlyByTheirCommands` has a step that changes its registers. -/
theorem witness_ControlRegisters : (after (.setOtherModes 1) boot).gs.om ≠ boot.gs.om ∧ (after (.setCombineMode 1) boot).gs.cc ≠ boot.gs.cc ∧
    (after (.setScissor 0 0 1 0 false false) boot).gs.clip ≠ boot.gs.clip ∧ (after (.setColorImage 0 2 0 0) boot).gs.img ≠ boot.gs.img ∧
    (after (.setZImage 2) boot).gs.img ≠ boot.gs.img ∧ (after (.setTile tileCmd) boot).gs.tiles ≠ boot.gs.tiles ∧
    (after (.setTileSize 0 1 0 0 0) boot).gs.tiles ≠ boot.gs.tiles ∧
    (after (.recomputeTile 0) { boot with gs.tiles := boot.gs.tiles.set 0 { Tile.reset with sh := 12 } }).gs.tiles ≠
      boot.gs.tiles.set 0 { Tile.reset with sh := 12 } ∧
    (after (.setFillColor 1) boot).gs.misc.fillColor ≠ boot.gs.misc.fillColor ∧
    (after (.setPrimDepth 1 0) boot).gs.misc.primitiveZ ≠ boot.gs.misc.primitiveZ ∧
    (after (.setPrimColor 1 0 0 0 0 0) boot).gs.sca.minLevel ≠ boot.gs.sca.minLevel ∧
    (after (.setEnvColor 1 0 0 0) boot).gs.col.env ≠ boot.gs.col.env ∧ (after (.setFogColor 1 0 0 0) boot).gs.col.fog ≠ boot.gs.col.fog ∧
    (after (.setBlendColor 1 0 0 0) boot).gs.col.blend ≠ boot.gs.col.blend ∧
    (after (.setKeyR 1 0 0) boot).gs.col.keyWidth ≠ boot.gs.col.keyWidth ∧
    (after (.setKeyGb 0 0 0 1 0 0) boot).gs.col.keyScale ≠ boot.gs.col.keyScale ∧
    (after (.setConvert 0 0 0 0 0 1) boot).gs.sca.k5 ≠ boot.gs.sca.k5 := by decide +kernel

theorem witness_OutputsAndStaleFlag : p1Ready.gs.seq.phase = .idle ∧ p1Ready.port = [0x40, 0, 0x10, 0, 4, 0, 0, 0, 0] :: [] ∧
    decode [0x40, 0, 0x10, 0, 4, 0, 0, 0, 0] = .ok (.fillRect 0x10 4 0 0) ∧ isNext (step p1Ready) = true ∧
    (stepped p1State [0x40, 0, 0x10, 0, 4, 0, 0, 0, 0]).gs.stale = false ∧ (stepped p1State [0x2F]).gs.stale = true ∧
    (stepped p1State [0x3F]).gs.img.fbAddress ≠ p1State.gs.img.fbAddress ∧
    (stepped { p1State with gs.pipelineCrashed := true } [0x37]).gs.pipelineCrashed = true :=
  ⟨rfl, rfl, rfl, by decide +kernel, by decide +kernel, by decide +kernel, by decide +kernel, by decide +kernel⟩

/-- Both parities of a byte index, and the wrap at the top of RDRAM, where the neighbouring unit differs. -/
theorem witness_RdramAndHiddenAccesses : (0x1000#32).toNat % 2 = 0 ∧ (0x1001#32).toNat % 2 = 1 ∧
    (0x100001#32).toNat % boot.ramBytes = 1 ∧ 0 ≠ (0x100001#32).toNat % boot.ramBytes ∧
    (2 : Nat) / 2 ≠ (0x80000#32).toNat % (boot.ramBytes / 2) ∧ (4 : Nat) / 4 ≠ (0x40000#32).toNat % (boot.ramBytes / 4) ∧
    (1 : Nat) ≠ (0x80000#32).toNat % (boot.ramBytes / 2) := by decide +kernel

theorem witness_DeduceDerivatives : (deduce 0x000000F000000000 0x0000011008FC013C).ditherLevel ≠ 0 ∧
    (deduce 0x000000F000000000 0x0000011008FC013C).ditherLevel ≠ 1 ∧ (deduce 0x0000003000404048 0).ditherLevel = 1 ∧
    (deduce (2 <<< 36) 0).ditherLevel = 0 := by decide +kernel

/-- Fetchable tiles, in fill mode. -/
theorem drawable_p1State : Drawable p1State := ⟨fetchable_of (by decide +kernel), by decide +kernel, by decide +kernel, by decide +kernel⟩

/-- Copy mode through the lookup table, and with every tile of 16 bits. -/
theorem drawable_copy : Drawable { p1State with gs.om := 0x0020800000000000 } ∧
    Drawable { p1State with gs.om := 0x0020000000000000
                            gs.tiles := Vector.replicate 8 ({ Tile.reset with size := 2 } : Tile).recompute } := by
  refine ⟨⟨fetchable_of ?_, ?_, ?_, ?_⟩, ⟨fetchable_of ?_, ?_, ?_, ?_⟩⟩ <;> decide +kernel

theorem witness_DrawTriCompletes : Drawable p1State ∧ Drawable p6State ∧ p1State.gs.stale = true ∧ walked.gs.stale = false :=
  ⟨drawable_p1State, ⟨fetchable_of (by decide +kernel), by decide +kernel, by decide +kernel, by decide +kernel⟩, rfl, by decide +kernel⟩

/-- The parts of the draw of P1, from a stale state, and from one whose classification is fresh. -/
theorem witness_DrawTriIsWalkThenRender :
    (let d := after .deduceDerivatives { p1State with gs.seq.phase := .edgewalk }
     let w := after (.edgewalk p1Tri) d
     let m := { w with gs.seq.phase := .render, ret := p1State.ret }
     p1State.gs.stale = true ∧ exec .deduceDerivatives { p1State with gs.seq.phase := .edgewalk } = .next d ∧
     exec (.edgewalk p1Tri) d = .next w ∧ w.ret = .limits 0 1 ∧
     exec (.renderSpans 0 1 p1Tri.tile p1Tri.flip) m = .next (after (.renderSpans 0 1 p1Tri.tile p1Tri.flip) m)) ∧
    (let s := { p1State with gs.stale := false }
     s.gs.stale = false ∧ isNext (exec (.edgewalk p1Tri) { s with gs.seq.phase := .edgewalk }) = true) :=
  ⟨⟨rfl, exec_after (by decide +kernel), exec_after (by decide +kernel), by decide +kernel, exec_after (by decide +kernel)⟩,
    rfl, by decide +kernel⟩

theorem witness_RectanglesExpandToDrawTri : Drawable p1State ∧ Om.cycleType p1State.gs.om = 3 ∧ Om.cycleType copyState.gs.om = 2 ∧
    Om.cycleType p6State.gs.om = 0 :=
  ⟨drawable_p1State, by decide +kernel⟩

/-- Slope sums 0, 1, 2, 0x3FFF, 0x4000 and, from the negative end, 0x7FFF twice, with the results R178 gives. -/
theorem witness_EdgewalkSlopes : isNext (exec (.edgewalk (depthTri 0 0)) boot) = true ∧
    (after (.edgewalk { depthTri 0x20000 0 with zbuf := false }) boot).gs.slopes.dzpix = 1 ∧
    ([(0, 0), (0, 0x10000), (0x10000, 0x10000), (0x3FFF0000, 0), (0x3FFF0000, 0x10000), (0x80000000, 0x7FFF0000)] :
      List (Word × Word)).map (fun p => (after (.edgewalk (depthTri p.1 p.2)) boot).gs.slopes.dzpix) =
      [1, 3, 4, 0x4000, 0x8000, 0x8000] := by decide +kernel

/-- P4 with the field bit, keeping odd lines: line 1 is valid and line 0 is not; line 3 is the one after the last, its entry cleared,
line 4 is outside. With the scissor ending at line 0 the walk extends to line 1, which is not valid. -/
theorem witness_EdgewalkStoresOnlyItsScanlines :
    (let s := { p4State with gs.clip := ⟨0, 0, 0x20, 8, true, true⟩ }.putSpan 3 { p4State.spanAt 3 with validline := true }
     let t := after (.edgewalk p4Tri) s
     isNext (exec (.edgewalk p4Tri) s) = true ∧ s.gs.clip.scfield = true ∧
     yHighLimit p4Tri.yh s.gs.clip.yh / 4 = 0 ∧ yLowLimit p4Tri.yl s.gs.clip.yl / 4 = 2 ∧ ¬ (2 : Int) < p4Tri.yl.toInt / 4 ∧
     (t.spanAt 1).validline = true ∧ (t.spanAt 0).validline = false ∧
     (s.spanAt 3).validline = true ∧ (t.spanAt 3).validline = false ∧ t.spanAt 4 = s.spanAt 4) ∧
    (let s := { p4State with gs.clip := ⟨0, 0, 0x20, 3, false, false⟩ }
     let t := after (.edgewalk p4Tri) s
     yLowLimit p4Tri.yl s.gs.clip.yl / 4 = 0 ∧ (0 : Int) < p4Tri.yl.toInt / 4 ∧
     (t.spanAt 0).validline = true ∧ (t.spanAt 1).validline = false) := by
  decide +kernel

/-- The span of a record whose edges meet in pixel 0 of line 0. -/
def onePixel : State := after (.edgewalk { p1Tri with xl := 0x8000, xm := 0x8000 }) (shadedState 0x000000F000000000 0x0000011008FC013C)

theorem witness_RenderersComplete : Om.cycleType (shadedState 0 0).gs.om = 0 ∧ Om.cycleType (1#64 <<< 52) = 1 ∧
    Om.cycleType copyState.gs.om = 2 ∧ Om.cycleType walked.gs.om = 3 ∧ Drawable p1State ∧ TilesFetchable copyState ∧
    copyState.gs.img.fbSize = 2 ∧ Om.texLodEn copyState.gs.om = false ∧ Om.enTlut 0x0020800000000000 = true ∧
    crashConfig 3 walked = false ∧ TilesFetchable onePixel ∧ (onePixel.spanAt (0#12).toInt).validline = true ∧
    (onePixel.spanAt (0#12).toInt).lx = (onePixel.spanAt (0#12).toInt).rx :=
  ⟨by decide +kernel, by decide +kernel, by decide +kernel, by decide +kernel, drawable_p1State, fetchable_of (by decide +kernel),
    by decide +kernel, by decide +kernel, by decide +kernel, by decide +kernel, fetchable_of (by decide +kernel), by decide +kernel⟩

/-- Bytes 0x100A and 0x100B, and so hidden entry 0x805, lie past the five pixels of the span that P1 walks; each renderer answers. -/
theorem witness_RenderersStoreOnlyInTheirSpans :
    isNext (exec (.render1cycle 0 0 0 true) walked) = true ∧ isNext (exec (.render2cycle 0 0 0 true) walked) = true ∧
    isNext (exec (.renderCopy 0 0 0 true) copyState) = true ∧ isNext (exec (.renderFill 0 0 true) walked) = true ∧
    ∀ j : Int, inSpan walked true 0 j →
      (pixelIndexAt walked true 0 j).toNat ≤ 4 ∧ ¬ fbBytes walked (pixelIndexAt walked true 0 j) 0x100A ∧
      ¬ fbBytes walked (pixelIndexAt walked true 0 j) (2 * 0x805 + 1) := by
  refine ⟨by decide +kernel, by decide +kernel, by decide +kernel, by decide +kernel, ?_⟩
  rintro j ⟨-, h0, h1⟩
  have h2 : spanLength (walked.spanAt 0) true = 4 := by decide +kernel
  rw [h2] at h1
  have h3 : j = 0 ∨ j = 1 ∨ j = 2 ∨ j = 3 ∨ j = 4 := by omega
  have hs : walked.gs.img.fbSize.toNat = 2 := by decide +kernel
  have hb : ∀ p a, fbBytes walked p a ↔ a / 2 = walked.mask16 (walked.fbIndex16 p) := fun p a => by
    unfold fbBytes; rw [hs]
    exact Iff.rfl
  rw [hb, hb]
  rcases h3 with rfl | rfl | rfl | rfl | rfl <;> decide +kernel

/-- The fill of P1 at its fourth pixel, which is covered, and at its fifth, which is not, in the three sizes; pixel 4 of the copy span,
and with alpha compare pixel 1, whose texel has no alpha bit. -/
theorem witness_FillAndCopyWriteTheirPixels : crashConfig 3 walked = false ∧ isNext (exec (.renderFill 0 0 true) walked) = true ∧
    inSpan walked true (0#12).toInt 3 ∧
    (cvlut ((walked.cvgBuild 0 true).cvgAt (pixelX walked true 0 3).toNat)).cvg ≠ 0 ∧ walked.gs.img.fbSize = 2 ∧
    (∀ z ∈ ([1, 3] : List (BitVec 2)), crashConfig 3 { walked with gs.img.fbSize := z } = false ∧
      isNext (exec (.renderFill 0 0 true) { walked with gs.img.fbSize := z }) = true) ∧
    inSpan walked true (0#12).toInt 4 ∧
    (cvlut ((walked.cvgBuild 0 true).cvgAt (pixelX walked true 0 4).toNat)).cvg = 0 ∧
    copyState.gs.img.fbSize = 2 ∧ isNext (exec (.renderCopy 0 0 0 true) copyState) = true ∧ inSpan copyState true (0#12).toInt 4 ∧
    result (.copyTexel16 0 0 0 0) copyState = .texel16 0xF801 ∧ Om.alphaCompareEn 0x0020000000000001 = true ∧
    (let m := { copyState with gs.om := 0x0020000000000001, tmem := [(1, 0x01), (2, 0x07)] }
     isNext (exec (.renderCopy 0 0 0 true) m) = true ∧ inSpan m true (0#12).toInt 1 ∧
     result (.copyTexel16 0 0 0 1) m = .texel16 0x0700) := by
  refine ⟨?_, ?_, ⟨?_, ?_, ?_⟩, ?_, ?_, ?_, ⟨?_, ?_, ?_⟩, ?_, ?_, ?_, ⟨?_, ?_, ?_⟩, ?_, ?_, ?_, ⟨?_, ?_, ?_⟩, ?_⟩ <;>
    decide +kernel

theorem witness_AssertionsAreRefused : 20 ≤ (reservedState.tile 0).notlutswitch.toNat ∧ 5 ≤ (reservedState.tile 0).format.toNat ∧
    ({ boot with gs.img.fbSize := 1 } : State).gs.img.fbSize.toNat < 2 ∧ Om.texLodEn (1#64 <<< 48) = true ∧
    (boot.tile 0).format.toNat < 5 ∧ Om.enTlut boot.gs.om = false ∧ (boot.tile 0).size ≠ 2 ∧
    refusal (.renderCopy 0 0 0 true) { boot with gs.img.fbSize := 1 } = some .copyFramebufferSize := by decide +kernel

/-- The four ranges of the corrected depth. -/
theorem witness_GradientCorrection : ([0x1FFFFF, 0x200000, 0x2FFFFF, 0x300000, 0x3FFFFF] : List (BitVec 22)).map
    (fun z => result (.rgbazCorrect (fullCvg 0 z)) boot) =
    [.depth 0x3FFFF, .depth 0x3FFFF, .depth 0x3FFFF, .depth 0, .depth 0] := by decide +kernel

/-- Mask 0; a mirrored repetition and its first texel; an unmirrored one, its last texel, with and without mirroring; the clamp's
three cases. -/
theorem witness_CoordinateShiftClampMask : (7#12).toInt / 2 ^ (2#4).toNat % 2 = 1 ∧ ((3#12).toInt / 2 ^ (2#4).toNat % 2 ≠ 1) ∧
    result (.tcMaskCoupled 7 2 true 2) boot = .coupled 0 0 ∧ result (.tcMaskCoupled 3 2 true 2) boot = .coupled 3 0 ∧
    result (.tcMaskCoupled 3 2 false 2) boot = .coupled 3 (-3) ∧ result (.tcMaskCoupled 0x800 0 true 0) boot = .coupled 0x800 1 ∧
    result (.tcShift 0x8000 10 0) boot = .shifted (-32) false ∧ (-1#17).toInt < 0 := by decide +kernel

/-- Point sampled, and four taps, at texel 1 of row 0. -/
theorem witness_TexCycleSelectsArm : (let m := { textured with gs.om := 1 <<< 43 }
      Om.sampleType m.gs.om = false ∧ Om.enTlut m.gs.om = false ∧
      exec (.tmemFetch1 0 1 0) m = .next { m with ret := .texel ⟨0, 0xFF, 0, 0xFF⟩ } ∧
      (tcMask (tcClamp (tileRelative (tcShift 0x20 0 12).1 0) 0 (tcShift 0x20 0 12).2 false 3).1 2 false 2).signExtend 13 = 1) ∧
    (let m := { textured with gs.om := 5 <<< 43 }
     let q : Quad := ⟨⟨0, 0xFF, 0, 0xFF⟩, ⟨0, 0, 0xFF, 0xFF⟩, ⟨0x84, 0x84, 0x84, 0xFF⟩, ⟨0x42, 0x42, 0x42, 0xFF⟩⟩
     Om.sampleType m.gs.om = true ∧ exec (.tmemFetchQuad 0 1 1 0 1 false) m = .next { m with ret := .quad q }) :=
  ⟨⟨by decide +kernel, by decide +kernel, exec_eq (by decide +kernel) (by decide +kernel), by decide +kernel⟩, by decide +kernel,
    exec_eq (by decide +kernel) (by decide +kernel)⟩

/-- The variants of both cycle types; the end of a span of 8 and of 9 pixels before a valid and an invalid line. -/
theorem witness_TextureStepsComplete : TilesFetchable (texState 0 0) ∧ (texState 0 0).gs.der.cycle1Mode = 0 ∧
    (texState 1 1).gs.der.cycle1Mode ≠ 2 ∧ (texState 1 1).gs.der.cycle2Mode = 1 ∧ (texState 2 2).gs.der.cycle2Mode ≠ 3 ∧
    (let m := { boot with gs.span := [(1, { Span.reset with validline := true })] }
     (m.spanAt ((0#10).toNat + 1)).validline = true ∧ (m.spanAt ((1#10).toNat + 1)).validline = false) ∧ 7 < (8#12).toNat ∧
    (7#12).toNat ≤ 7 := ⟨fetchable_of (by decide +kernel), by decide +kernel⟩

/-- LOD off, LOD without `tex_lod_en`, and LOD with and without detail. -/
theorem witness_LevelOfDetail : Om.texLodEn boot.gs.om = false ∧ boot.gs.der.dolod = false ∧ Om.texLodEn (1#64 <<< 48) = true ∧
    Om.detailTexEn (1#64 <<< 48) = false ∧ Om.detailTexEn (5#64 <<< 48) = true ∧
    (let m := { boot with gs.om := 5 <<< 48, gs.der.dolod := true, gs.misc.maxLevel := 5 }
     result (.lod2cycle 0 0 { texOps with dsinc := 0xC00000 }) m = .lod2 0 0 3 4 0x80) := by decide +kernel

/-- A marked coordinate, distances at both sides of 0x4000; values at both sides of 32 and of 0x4000, and at the last level. -/
theorem witness_LodValueAndSignals : (lodValue ⟨0x20000, 0⟩ ⟨0, 0⟩ ⟨0, 0⟩).2 = true ∧ (lodValue ⟨0x1FFFF, 0⟩ ⟨0, 0⟩ ⟨0, 0⟩).2 = false ∧
    lodValue ⟨0, 0⟩ ⟨0x3FFF, 0⟩ ⟨0, 0⟩ = (0x3FFF, false) ∧ (lodValue ⟨0, 0⟩ ⟨0x4000, 0⟩ ⟨0, 0⟩).1.getLsbD 14 = true ∧
    (let m := { boot with gs.misc.maxLevel := 5 }
     (m.lodSignals 31 false).magnify = true ∧ (m.lodSignals 32 false).magnify = false ∧ (m.lodSignals 32 false).lTile = 0 ∧
     (m.lodSignals 0x3FFF false).distant = true ∧ (m.lodSignals 0x4000 false).lTile = 7 ∧ (m.lodSignals 0 true).lTile = 7 ∧
     (m.lodSignals 0x400 false).lTile = 5 ∧ (m.lodSignals 0x400 false).distant = true ∧ (m.lodSignals 0x3FF false).distant = false) := by
  decide +kernel

theorem witness_FetchDispatchAndQuad : selectTmemFetch (textured.tile 0).notlutswitch 0 0 0 = some (.tmemFetchRgba16 0 0 0) ∧
    (textured.tile 0).notlutswitch.toNat < 20 ∧ 20 ≤ (reservedState.tile 0).notlutswitch.toNat ∧
    selectTmemFetch 19 0 0 0 = some (.tmemFetchI32 0 0 0) ∧ Om.enTlut textured.gs.om = false ∧ Om.enTlut (tlutState (1 <<< 47)).gs.om = true :=
  ⟨rfl, by decide +kernel, by decide +kernel, rfl, by decide +kernel, by decide +kernel⟩

theorem witness_FetchThroughLookupTable : (textured.tile 0).format.toNat < 5 ∧ (textured.tile 0).recompute = textured.tile 0 ∧
    ({ Tile.reset with format := 4 } : Tile).recompute.format.toNat < 5 := by decide +kernel

theorem witness_CopyTexel : (textured.tile 0).format.toNat < 5 ∧ (textured.tile 0).recompute = textured.tile 0 ∧
    (textured.tile 0).size = 2 ∧ Om.enTlut (tlutState (1 <<< 47)).gs.om = true ∧
    (boot.tile 0).recompute = boot.tile 0 := by decide +kernel

/-- The alpha-compare inputs of `COMBINE_2CYCLE`: off, alpha, coverage, coverage times alpha, key; and the run of its second
cycle. -/
theorem witness_CombinerCycles : Om.alphaCompareEn 0 = false ∧ Om.alphaCompareEn 1 = true ∧ Om.alphaCvgSelect 0x2001 = true ∧
    Om.cvgTimesAlpha 0x2001 = false ∧ Om.cvgTimesAlpha 0x3001 = true ∧ Om.alphaCvgSelect 1 = false ∧ Om.keyEn 1 = false ∧
    Om.keyEn (1 <<< 40 ||| 1) = true ∧
    ([1, 0x2001, 0x3001, 1 <<< 40 ||| 1] : List (BitVec 64)).map
      (fun om => result (.combine2cycle 0 4) { shadeState shadeThenCombined with gs.om := om }) =
      [.combine2 0xFF 4, .combine2 0x80 4, .combine2 0x80 4, .combine2 0 4] := by decide +kernel

/-- The modes of `FINISH_CYCLE`. -/
theorem witness_FinishCycle : Om.keyEn 0 = false ∧ Om.keyEn (1 <<< 40) = true ∧ Om.alphaCvgSelect 0 = false ∧
    Om.alphaCvgSelect 0x2000 = true ∧
    ([0, 0x2000, 0x3000] : List (BitVec 64)).map
      (fun om => (after (.finishCycle 1 4 ⟨0, 0, 0⟩) { boot with gs.om := om, gs.col.combined.a := 0xFF }).gs.col.pixel.a) =
      [0xFF, 0x80, 0x80] := by decide +kernel

/-- The ends of the ranges of `bldiv`. -/
theorem witness_BlendDivisionIsExact : (255 / 1 ≤ 255 ∧ (bldiv (BitVec.ofNat 15 (1 * 2048 + 255))).toNat = 255) ∧
    (2047 / 8 ≤ 255 ∧ (bldiv (BitVec.ofNat 15 (8 * 2048 + 2047))).toNat = 255) := by decide +kernel

/-- `force_blend`; a divisor of 8; a divisor of 15, outside the exact range of the table. -/
theorem witness_BlendEquations : Om.forceBlend (blendState 0x404000).gs.om = true ∧ Om.forceBlend (blendState 0x400000).gs.om = false ∧
    (blend1b (blendState 0x400000) false).toNat / 8 / 4 + (blend2b (blendState 0x400000) false).toNat / 8 / 4 + 1 = 8 ∧
    (let m := { blendState 0x480000 with gs.col.pixel := ⟨200, 0, 0, 0xFF⟩ }
     (blend1b m false).toNat / 8 / 4 + (blend2b m false).toNat / 8 / 4 + 1 = 15) := by decide +kernel

theorem witness_AlphaCompare : Om.alphaCompareEn boot.gs.om = false ∧ Om.alphaCompareEn 1 = true ∧ Om.ditherAlphaEn 1 = false ∧
    Om.ditherAlphaEn 3 = true := by decide +kernel

/-- A pixel that is blended, one that passes 1A, and one that coverage rejects. -/
theorem witness_BlendOneCycle : let m := blendState 0xC000404000
    exec (.alphaCompare m.gs.col.pixel.a) m = .next { m with ret := .bool true } ∧
    (let t := after (.blend1cycle ⟨0, true, true, 8, true⟩) m
     exec (.blend1cycle ⟨0, true, true, 8, true⟩) m = .next t ∧ t.ret = .blended true ⟨100, 0, 50⟩) ∧
    result (.blend1cycle ⟨0, false, true, 8, true⟩) m = .blended true ⟨200, 0, 0⟩ ∧
    result (.blend1cycle ⟨0, true, true, 8, false⟩) m = .blended false ⟨0, 0, 0⟩ :=
  ⟨exec_eq (by decide +kernel) (by decide +kernel), ⟨exec_after (by decide +kernel), by decide +kernel⟩, by decide +kernel,
    by decide +kernel⟩

/-- The premises of the second part: alpha compare passes, coverage passes, and the first cycle's colour; and a pixel whose coverage bit
is clear: it is not written and the sequencer's cycle stays. -/
theorem witness_BlendTwoCycle : let m := { blendState 0x1000C000400000 with gs.col.preMemory := ⟨9, 9, 9, 0xE0⟩ }
    exec (.alphaCompare 0) m = .next { m with ret := .bool true } ∧ Om.antialiasEn m.gs.om = false ∧
    (let t := after (.blend2cycle ⟨0, false, true, 8, true⟩ 0) m
     exec (.blend2cycle ⟨0, false, true, 8, true⟩ 0) m = .next t ∧ t.ret = .blended true ⟨100, 0, 50⟩) ∧
    (let inv := { m with gs.col.invPixelA := ~~~((blend1b m false).setWidth 8) }
     exec .blendEqC02 inv = .next { inv with ret := .rgb ⟨100, 0, 50⟩ }) ∧
    (let t := after (.blend2cycle ⟨0, false, true, 8, false⟩ 0) m
     (∃ d, t.ret = .blended false d) ∧ t.gs.col.memory = m.gs.col.preMemory ∧ t.gs.seq.cycle = 0) :=
  ⟨exec_eq (by decide +kernel) (by decide +kernel), by decide +kernel, ⟨exec_after (by decide +kernel), by decide +kernel⟩,
    exec_eq (by decide +kernel) (by decide +kernel), ⟨⟨0, 0, 0⟩, by decide +kernel⟩, by decide +kernel⟩

theorem witness_DepthRoundTrip : 0x3F000 ≤ (0x3F000#18).toNat ∧ (0x1FFFF#18).toNat < 0x20000 ∧
    zDecompress (zCompress 0x3F000) = 0x3F000 ∧ zDecompress (zCompress 0x1FFFF) = 0x1FFC0 := by decide +kernel

/-- Both derived flags, on and off. -/
theorem witness_Shifters : (after (.shifters 15 0) boot).gs.hid = ⟨1, 0, 0, 0, 0, 0⟩ ∧ boot.gs.der.realShiftersNeeded = false ∧
    boot.gs.der.interpixelShiftersNeeded = false ∧
    (after (.shifters 15 0) { boot with gs.der.realShiftersNeeded := true }).gs.hid = ⟨1, 4, 0, 0, 0, 0⟩ ∧
    (after (.shifters 0 1) { boot with gs.der.interpixelShiftersNeeded := true, gs.hid.pastrawdzmem := 4 }).gs.hid = ⟨1, 0, 0, 0, 4, 1⟩ := by
  decide +kernel

/-- The two cases of the interpenetrating arm. -/
theorem witness_DepthModeArms : let x : ZTerms := ⟨true, true, false, false, true⟩
    (x.infront = true ∧ x.farther = true ∧ x.overflow = true) ∧
    ¬ ({ x with overflow := false }.infront = true ∧ { x with overflow := false }.farther = true ∧
      { x with overflow := false }.overflow = true) := by decide +kernel

theorem witness_DepthCompare : Om.zCompareEn boot.gs.om = false ∧ Om.zCompareEn (zState 0x10 0 0).gs.om = true ∧
    selectZMode 1 ⟨true, true, false, false, true⟩ 0 0 0 8 = .zcompareInterpenetrating ⟨true, true, false, false, true⟩ 0 0 0 8 ∧
    selectZMode 0 ⟨true, true, false, false, true⟩ 0 0 0 8 = .zcompareOpaque ⟨true, true, false, false, true⟩ := by decide +kernel

/-- The span of P1, its ends, a pixel outside it; and an empty span. -/
theorem witness_CoverageOfASpan : isNext (exec (.cvgBuild 0 true) walked) = true ∧ (walked.spanAt 0).rx.toNat = 0 ∧
    (walked.spanAt 0).lx.toNat = 4 ∧ (after (.cvgBuild 0 true) walked).cvgAt 3 = 0xFF ∧ (after (.cvgBuild 0 true) walked).cvgAt 4 = 0 ∧
    (∀ k : Fin 4, 5 ≠ (walked.spanAt 0).majorx[k].toNat / 8 ∧ 5 ≠ (walked.spanAt 0).minorx[k].toNat / 8) ∧
    (walked.spanAt 1).lx.toNat < (walked.spanAt 1).rx.toNat ∧ after (.cvgBuild 1 true) walked = walked := by decide +kernel

/-- The empty mask, and the first sample of a mask with one bit. -/
theorem witness_CoverageLookup : result (.cvgLookup 0) boot = .lookup 0 0 0 false ∧ (0x01#8 ≠ 0) ∧
    result (.cvgLookup 0x01) boot = .lookup 3 3 1 false := by decide +kernel

/-- The three levels, and a noise arm of each kind: `irand` colour (8), none (12). -/
theorem witness_DitherUnit : ({ boot with gs.der.ditherLevel := 2 } : State).gs.der.ditherLevel = 2 ∧ boot.gs.der.ditherLevel ≠ 2 ∧
    (after (.ditherNoise 0 0 0 0) { boot with gs.der.rgbAlphaDither := 14 }).gs.sca.noise = 0x29 % 8 * 64 + 32 ∧
    result (.ditherNoise 0 0 0 0) { boot with gs.der.ditherLevel := 1, gs.der.rgbAlphaDither := 8 } = .dither 0x29 0 ∧
    result (.ditherNoise 1 0 0 0) { boot with gs.der.ditherLevel := 1, gs.der.rgbAlphaDither := 13 } = .dither 7 3 := by
  decide +kernel

theorem witness_FramebufferReads : (fbState 0).gs.img.fbFormat = 0 ∧ Om.imageReadEn (fbState 0x40).gs.om = true ∧
    ({ fbState 0 with gs.img.fbFormat := 1 } : State).gs.img.fbFormat ≠ 0 ∧
    (after (.fbRead16 0 false) { fbState 0 with gs.img.fbFormat := 1, ram := [(0x1000, 0x12)] }).gs.col.memory = ⟨0x12, 0x12, 0x12, 0xE0⟩ := by
  decide +kernel

/-- The four coverage destinations; an odd byte index. -/
theorem witness_FramebufferWrites : (Om.cvgDest 0).toNat = 0 ∧ (Om.cvgDest 0x100).toNat = 1 ∧ (Om.cvgDest 0x200).toNat = 2 ∧
    (Om.cvgDest 0x300).toNat = 3 ∧ result (.finalCvg false 0 0) boot = .memcvg 7 ∧ result (.finalCvg true 8 7) boot = .memcvg 7 ∧
    ((fbState 0).gs.img.fbAddress.toNat + (1#32).toNat) % 2 ^ 32 % 2 = 1 ∧ (fbState 0).gs.img.fbFormat = 0 := by decide +kernel

theorem witness_FramebufferFills : ((fbState 0).gs.img.fbAddress.toNat + (1#32).toNat) % 2 ^ 32 % 2 = 1 ∧
    (after (.fbFill8 1) { fbState 0 with gs.misc.fillColor := 0x01000000 }).hidden = [(0x800, 3)] := by decide +kernel

end Sys2Proof.Tests
end

/-! ## The state family: a step of the block (`10_state.md`)

A step runs one decoded record. `CommandStep` says once what a command may do to what the outside sees and to the
invariant; the two obligations over a step follow from it. -/

section

namespace Sys2Proof.Machine

variable {s t : State} {i : Instr}

/-! ### The step function -/

/-- An idle block runs the record at its port on the state without that record (R120 (a)). -/
theorem step_decoded {rec : List Byte} {rest : List (List Byte)} (hidle : s.gs.seq.phase = .idle)
    (hport : s.port = rec :: rest) (hdec : decode rec = .ok i) : step s = exec i (s.setPort rest) := by
  unfold step
  rw [hidle, hport]
  simp only [hdec]

/-- The three things a step that answers can have done: nothing, dropped a record, or run one. -/
theorem step_cases (h : step s = .next t) : t = s ∨ (∃ rest, t = s.setPort rest) ∨
    ∃ rec rest i, decode rec = .ok i ∧ exec i (s.setPort rest) = .next t := by
  unfold step at h
  split at h
  · cases h; exact .inl rfl
  · cases h; exact .inl rfl
  · split at h
    · cases h; exact .inl rfl
    · split at h
      · next hdec => exact .inr (.inr ⟨_, _, _, hdec, h⟩)
      · cases h; exact .inr (.inl ⟨_, rfl⟩)

/-- A table word that decodes is a record that decodes. -/
theorem decode_tableRecord {nbits w : Nat} (h : decodeTableWord nbits w = some i) :
    decode (tableRecord nbits w) = .ok i := by
  unfold decodeTableWord at h
  split at h
  · next hdec => cases h; exact hdec
  · cases h

/-- What the decoder gives has a record: it is no stage operation (R120 (b)). -/
theorem decode_hasRecord {bs : List Byte} (h : decode bs = .ok i) : ∃ cs, encode i = some cs := by
  unfold decode at h
  split at h
  · cases h
  · split at h
    · cases h; exact ⟨_, rfl⟩
    · split at h <;> cases h <;> exact ⟨_, rfl⟩

/-! ### Bit facts of the registers -/

theorem modeBits_idem (v : BitVec 64) : modeBits (modeBits v) = modeBits v := by
  unfold modeBits
  rw [BitVec.and_assoc, BitVec.and_self]

/-- The depth of `SET_PRIM_DEPTH` holds `depth[14:0]` in its high half and nothing else (R47, R559). -/
theorem primDepth_masked (z : BitVec 16) :
    ((z &&& 0x7FFF) ++ 0#16 : BitVec 32) &&& 0x7FFF0000 = (z &&& 0x7FFF) ++ 0#16 := by
  have hmask : (0x7FFF0000 : BitVec 32) = 0x7FFF#16 ++ 0#16 := rfl
  rw [hmask, BitVec.and_append, BitVec.and_assoc]
  rfl

/-- `SET_COLOR_IMAGE` holds pixels per line minus one, so the width is at most 1024 (R45). -/
theorem fbWidth_le (width : BitVec 10) : (width.setWidth 11 + 1 : BitVec 11).toNat ≤ 1024 := by
  bv_omega

/-- Tile `m` after a write of tile `n`. -/
theorem State.putTile_tile (s : State) (n m : BitVec 3) (x : Tile) :
    (s.putTile n x).tile m = if m = n then x else s.tile m := by
  unfold State.tile State.putTile
  simp only [State.setTiles_tiles, Vector.getElem_set, BitVec.toNat_inj, eq_comm (a := n)]

theorem Tile.recompute_idem (x : Tile) : x.recompute.recompute = x.recompute := rfl

/-! ### The invariant under each setter a command uses -/

theorem Inv.setPort (h : Inv s) (x : List (List Byte)) : Inv (s.setPort x) :=
  ⟨{ h.stores with }, { h.derived with }, { h.registers with }⟩

theorem Inv.setSca (h : Inv s) (x : ScalarRegs) : Inv (s.setSca x) :=
  ⟨{ h.stores with }, { h.derived with }, { h.registers with }⟩

theorem Inv.setClip (h : Inv s) (x : Clip) : Inv (s.setClip x) :=
  ⟨{ h.stores with }, { h.derived with }, { h.registers with }⟩

theorem Inv.setCol (h : Inv s) (x : ColorRegs) (hp : x.pixel = s.gs.col.pixel) (hm : x.memory = s.gs.col.memory)
    (hq : x.preMemory = s.gs.col.preMemory) : Inv (s.setCol x) :=
  ⟨{ h.stores with }, { h.derived with }, { h.registers with
    pixelAlpha := by rw [State.setCol_col, hp]; exact h.registers.pixelAlpha
    memoryAlpha := by rw [State.setCol_col, hm]; exact h.registers.memoryAlpha
    preMemoryAlpha := by rw [State.setCol_col, hq]; exact h.registers.preMemoryAlpha }⟩

theorem Inv.setImg (h : Inv s) (x : ImageRegs) (hw : x.fbWidth.toNat ≤ 1024) : Inv (s.setImg x) :=
  ⟨{ h.stores with }, { h.derived with }, { h.registers with fbWidth := hw }⟩

theorem Inv.setMisc (h : Inv s) (x : MiscRegs) (hz : x.primitiveZ &&& 0x7FFF0000 = x.primitiveZ)
    (hs : x.stride = s.gs.misc.stride) (hw : x.workerOffset = s.gs.misc.workerOffset) : Inv (s.setMisc x) :=
  ⟨{ h.stores with }, { h.derived with }, { h.registers with
    primitiveZ := hz, stride := hs.trans h.registers.stride, workerOffset := hw.trans h.registers.workerOffset }⟩

/-- A tile may be replaced by any tile whose derived fields were just recomputed (R546). -/
theorem Inv.putTile (h : Inv s) (n : BitVec 3) (x : Tile) : Inv (s.putTile n x.recompute) where
  stores := { h.stores with }
  derived :=
    { flags := h.derived.flags
      tiles := fun m => by
        rw [State.putTile_tile]
        split
        · exact x.recompute_idem
        · exact h.derived.tiles m }
  registers := { h.registers with }

theorem Inv.setTmem (h : Inv s) {x : List Host.Cell} (hwf : Memory.wf x = true)
    (hkeys : keysBelow Config.tmemBytes x = true) : Inv (s.setTmem x) :=
  ⟨h.stores.setTmem hwf hkeys, { h.derived with }, { h.registers with }⟩

/-- New modes may disagree with the classification flags, because they come with the stale flag (R562). -/
theorem Inv.setModes (h : Inv s) (om : BitVec 64) : Inv ((s.setOm (modeBits om)).setStale true) :=
  ⟨{ h.stores with }, { h.derived with flags := .inl rfl }, { h.registers with om := modeBits_idem om }⟩

theorem Inv.setCombine (h : Inv s) (cc : BitVec 64) : Inv ((s.setCc (modeBits cc)).setStale true) :=
  ⟨{ h.stores with }, { h.derived with flags := .inl rfl }, { h.registers with cc := modeBits_idem cc }⟩

/-! ### What a draw does -/

/-- The edge walk touches no colour register and no shifter. -/
theorem WalkFrame.ranged (h : WalkFrame s t) (hr : Ranged s) : Ranged t := by
  have hcol : t.gs.col = s.gs.col := (congrArg (fun m : State => m.gs.col) h.frame :)
  have hhid : t.gs.hid = s.gs.hid := (congrArg (fun m : State => m.gs.hid) h.frame :)
  exact ⟨hhid ▸ hr.blshifta, hhid ▸ hr.blshiftb, hhid ▸ hr.pastblshifta, hhid ▸ hr.pastblshiftb,
    hcol ▸ hr.pixelAlpha, hcol ▸ hr.memoryAlpha, hcol ▸ hr.preMemoryAlpha⟩

/-- Everything a whole draw may do (R172, R572): it keeps the control registers, the canonical forms and the ranges, leaves
the classification flags fresh and the block idle, and raises the crash in the configurations of R570. -/
structure DrawStep (s t : State) : Prop where
  control : SameControl s t
  stores : StoresSound s → StoresSound t
  ranged : Ranged s → Ranged t
  stale : t.gs.stale = false
  der : t.gs.der = if s.gs.stale then deduce s.gs.om s.gs.cc else s.gs.der
  crashed : t.gs.pipelineCrashed = (s.gs.pipelineCrashed || crashConfig (Om.cycleType s.gs.om).toNat s)
  port : t.port = s.port
  phase : t.gs.seq.phase = .idle

/-- The state a draw walks from: everything but the phase and the classification flags is as it was (R172). -/
theorem drawBegin_keeps (s : State) : SameControl s s.drawBegin ∧ (StoresSound s → StoresSound s.drawBegin) ∧
    (Ranged s → Ranged s.drawBegin) := by
  rw [State.drawBegin_eq]
  exact ⟨{ SameControl.refl s with }, fun h => { h with }, fun h => { h with }⟩

theorem drawTri_step {c : TriCmd} (h : s.drawTri c = .ok t) : DrawStep s t := by
  obtain ⟨w, r, hw, -, rfl, hend⟩ := drawTri_cases h
  obtain ⟨hbc, hbs, hbr⟩ := drawBegin_keeps s
  have hf := hw.frame
  have hstale : w.gs.stale = false := by rw [hf, State.drawBegin_eq]
  have hder : w.gs.der = if s.gs.stale then deduce s.gs.om s.gs.cc else s.gs.der := by rw [hf, State.drawBegin_eq]
  have hcrash : w.gs.pipelineCrashed = s.gs.pipelineCrashed := by rw [hf, State.drawBegin_eq]
  have hport : w.port = s.port := by rw [hf, State.drawBegin_eq]
  have hcontrol := hbc.trans hw.control
  have hstores := fun x => hw.stores (hbs x)
  have hranged := fun x => hw.ranged (hbr x)
  rcases hend with ⟨hcfg, rfl⟩ | ⟨hcfg, W, hr⟩
  · exact {
      control := { hcontrol with }
      stores := fun x => { hstores x with }
      ranged := fun x => { hranged x with }
      stale := hstale
      der := hder
      crashed := by rw [hcfg, Bool.or_true]; rfl
      port := hport
      phase := rfl }
  · exact {
      control := hcontrol.trans (SameControl.trans (t := w.setPhase .render) { SameControl.refl w with } { hr.control with })
      stores := fun x => { hr.stores { hstores x with } with }
      ranged := fun x => { hr.ranged { hranged x with } with }
      stale := hr.stale.trans hstale
      der := hr.der.trans hder
      crashed := by rw [hcfg, Bool.or_false]; exact hr.crashed.trans hcrash
      port := hr.port.trans hport
      phase := rfl }

theorem RegistersSound.ranged (h : RegistersSound s) : Ranged s := { h with }

theorem RegistersSound.of_control (h : RegistersSound s) (hc : SameControl s t) (hr : Ranged t)
    (hidle : t.gs.seq.phase = .idle) : RegistersSound t where
  om := by rw [hc.om]; exact h.om
  cc := by rw [hc.cc]; exact h.cc
  fbWidth := by rw [hc.img]; exact h.fbWidth
  primitiveZ := by rw [hc.primitiveZ]; exact h.primitiveZ
  blshifta := hr.blshifta
  blshiftb := hr.blshiftb
  pastblshifta := hr.pastblshifta
  pastblshiftb := hr.pastblshiftb
  pixelAlpha := hr.pixelAlpha
  memoryAlpha := hr.memoryAlpha
  preMemoryAlpha := hr.preMemoryAlpha
  stride := hc.stride.trans h.stride
  workerOffset := hc.workerOffset.trans h.workerOffset
  idle := hidle

/-- After a draw the classification flags are those of the modes: either the draw computed them, or they were not stale. -/
theorem DrawStep.derived (h : DrawStep s t) (hs : DerivedSound s) : DerivedSound t where
  tiles := fun n => by
    have htile : t.tile n = s.tile n := by unfold State.tile; rw [h.control.tiles]
    rw [htile]
    exact hs.tiles n
  flags := by
    right
    rw [h.der, h.control.om, h.control.cc]
    split
    · rfl
    · next hfresh => exact hs.flags.resolve_left hfresh

theorem DrawStep.inv (h : DrawStep s t) (hs : Inv s) : Inv t where
  stores := h.stores hs.stores
  derived := h.derived hs.derived
  registers := hs.registers.of_control h.control (h.ranged hs.registers.ranged) h.phase

/-! ### What a command does -/

/-- The framebuffer handoff to the video interface (R46). -/
def State.handoff (s : State) : BitVec 26 × BitVec 11 × BitVec 3 × BitVec 2 :=
  (s.gs.img.fbAddress, s.gs.img.fbWidth, s.gs.img.fbFormat, s.gs.img.fbSize)

/-- What any command may do to the invariant and to what the outside sees. -/
structure CommandStep (i : Instr) (s t : State) : Prop where
  inv : Inv s → Inv t
  handoff : t.handoff ≠ s.handoff → ∃ f z w a, i = .setColorImage f z w a
  staleSet : t.gs.stale = true → s.gs.stale = true ∧ isDraw i = false ∨
    (∃ om, i = .setOtherModes om) ∨ ∃ cc, i = .setCombineMode cc
  staleClear : t.gs.stale = false → s.gs.stale = false ∨ isDraw i = true
  crashed : s.gs.pipelineCrashed = true → t.gs.pipelineCrashed = true
  port : t.port = s.port

theorem DrawStep.command (h : DrawStep s t) (hd : isDraw i = true) : CommandStep i s t where
  inv := h.inv
  handoff := fun hne => absurd (by unfold State.handoff; rw [h.control.img]) hne
  staleSet := fun hst => by rw [h.stale] at hst; cases hst
  staleClear := fun _ => .inr hd
  crashed := fun hc => by rw [h.crashed, hc, Bool.true_or]
  port := h.port

/-- A command that is no draw and touches nothing the outside sees. -/
theorem CommandStep.of_quiet (hi : Inv s → Inv t) (hd : isDraw i = false := by rfl)
    (hh : t.handoff = s.handoff := by rfl) (hst : t.gs.stale = s.gs.stale := by rfl)
    (hc : t.gs.pipelineCrashed = s.gs.pipelineCrashed := by rfl) (hp : t.port = s.port := by rfl) :
    CommandStep i s t where
  inv := hi
  handoff := fun hne => absurd hh hne
  staleSet := fun h => .inl ⟨hst ▸ h, hd⟩
  staleClear := fun h => .inl (hst ▸ h)
  crashed := fun h => hc ▸ h
  port := hp

theorem ofExcept_next {x : Except Refusal State} (h : ofExcept x = .next t) : x = .ok t := by
  cases x with
  | ok u => cases h; rfl
  | error e => cases h

/-- One case per operation that has a record: the draws by `drawTri_step`, the rest by the setter they use. -/
theorem exec_command {cs : List Byte} (hrec : encode i = some cs) (h : exec i s = .next t) : CommandStep i s t := by
  cases i with
  | drawTri c => exact (drawTri_step (ofExcept_next h)).command rfl
  | fillRect xl yl xh yh => exact (drawTri_step (ofExcept_next h)).command rfl
  | texRect xl yl tile xh yh a b dsdx dtdy => exact (drawTri_step (ofExcept_next h)).command rfl
  | setOtherModes om =>
    cases h
    exact { inv := fun k => k.setModes om, handoff := fun hne => absurd rfl hne
            staleSet := fun _ => .inr (.inl ⟨om, rfl⟩), staleClear := (nomatch ·), crashed := id, port := rfl }
  | setCombineMode cc =>
    cases h
    exact { inv := fun k => k.setCombine cc, handoff := fun hne => absurd rfl hne
            staleSet := fun _ => .inr (.inr ⟨cc, rfl⟩), staleClear := (nomatch ·), crashed := id, port := rfl }
  | setColorImage f z w a =>
    cases h
    exact { inv := fun k => k.setImg _ (fbWidth_le w), handoff := fun _ => ⟨f, z, w, a, rfl⟩
            staleSet := fun hst => .inl ⟨hst, rfl⟩, staleClear := .inl, crashed := id, port := rfl }
  | setZImage a => cases h; exact .of_quiet fun k => k.setImg _ k.registers.fbWidth
  | setFillColor c => cases h; exact .of_quiet fun k => k.setMisc _ k.registers.primitiveZ rfl rfl
  | setPrimDepth z dz => cases h; exact .of_quiet fun k => k.setMisc _ (primDepth_masked z) rfl rfl
  | setFogColor r g b a => cases h; exact .of_quiet fun k => k.setCol _ rfl rfl rfl
  | setBlendColor r g b a => cases h; exact .of_quiet fun k => k.setCol _ rfl rfl rfl
  | setEnvColor r g b a => cases h; exact .of_quiet fun k => k.setCol _ rfl rfl rfl
  | setPrimColor m l r g b a => cases h; exact .of_quiet fun k => (k.setSca _).setCol _ rfl rfl rfl
  | setKeyR w c k => cases h; exact .of_quiet fun k => k.setCol _ rfl rfl rfl
  | setKeyGb wg wb cg kg cb kb => cases h; exact .of_quiet fun k => k.setCol _ rfl rfl rfl
  | setConvert k0 k1 k2 k3 k4 k5 => cases h; exact .of_quiet fun k => k.setSca _
  | setScissor xh yh xl yl f o => cases h; exact .of_quiet fun k => k.setClip _
  | setTile c => cases h; exact .of_quiet fun k => k.putTile _ _
  | setTileSize n sl tl sh th => cases h; exact .of_quiet fun k => k.putTile _ _
  | loadTile n sl tl sh th => cases h; exact .of_quiet fun k => (k.putTile _ _).setTmem (tmemOf_wf _).1 (tmemOf_wf _).2
  | _ => exact nomatch hrec

/-! ### The obligations -/

/-- Settles O4: the table word's clause is the first clause on the state `withFetchWord` builds. -/
theorem stepRunsTheDecodedRecord : Obligations.StepRunsTheDecodedRecord := by
  unfold Obligations.StepRunsTheDecodedRecord
  refine ⟨fun s rec rest i hidle hport hdec => step_decoded hidle hport hdec, fun s nbits w i hw => ?_⟩
  exact step_decoded (s := s.withFetchWord nbits w) rfl rfl (decode_tableRecord hw)

/-- Settles O8: a step does nothing, drops a record, or runs a command. -/
theorem stepKeepsInvariant : Obligations.StepKeepsInvariant := by
  unfold Obligations.StepKeepsInvariant
  intro s t hinv h
  obtain rfl | ⟨rest, rfl⟩ | ⟨rec, rest, i, hdec, hexec⟩ := step_cases h
  · exact hinv
  · exact hinv.setPort rest
  · obtain ⟨cs, hrec⟩ := decode_hasRecord hdec
    exact (exec_command hrec hexec).inv (hinv.setPort rest)

/-- Settles O13: the outputs over a step are those of the one command it runs. -/
theorem outputsAndStaleFlagOverAStep : Obligations.OutputsAndStaleFlagOverAStep := by
  unfold Obligations.OutputsAndStaleFlagOverAStep
  intro s t rec rest i hidle hport hdec h
  rw [step_decoded hidle hport hdec] at h
  obtain ⟨cs, hrec⟩ := decode_hasRecord hdec
  have k := exec_command hrec h
  exact ⟨k.handoff, k.staleSet, k.staleClear, k.crashed, k.port⟩

end Sys2Proof.Machine

end

/-! ## The memory family: RDRAM, the hidden store and TMEM (`20_memory.md`)

What the accesses of R81 to R87 read and write, in bytes and hidden entries; and which operations write at all (R92, R344).
`exec_stage` says once what an operation that the sequencer issues while it renders does: it crashes, or it is a `Stage`. -/

section

namespace Sys2Proof.Machine

variable {s t : State} {i : Instr}

/-! ### Reads as numbers, big-endian (R81, R84) -/

theorem toNat_append_eq_add {m n : Nat} (x : BitVec m) (y : BitVec n) :
    (x ++ y).toNat = 2 ^ n * x.toNat + y.toNat := by
  rw [BitVec.toNat_append, Nat.shiftLeft_eq, Nat.mul_comm, Nat.two_pow_add_eq_or_of_lt y.isLt]

theorem State.rd16_toNat (s : State) (i : Word) : (s.rd16 i).toNat =
    256 * (s.ramByte (2 * s.mask16 i)).toNat + (s.ramByte (2 * s.mask16 i + 1)).toNat :=
  toNat_append_eq_add _ _

theorem State.rd32_toNat (s : State) (i : Word) : (s.rd32 i).toNat =
    16777216 * (s.ramByte (4 * s.mask32 i)).toNat + 65536 * (s.ramByte (4 * s.mask32 i + 1)).toNat +
      256 * (s.ramByte (4 * s.mask32 i + 2)).toNat + (s.ramByte (4 * s.mask32 i + 3)).toNat := by
  unfold State.rd32
  simp only [toNat_append_eq_add]
  omega

/-! ### What a write leaves (R85, R87) -/

theorem State.wr8_ramByte_other (s : State) (i : Word) (v : Byte) {a : Nat} (h : a ≠ s.mask8 i) :
    (s.wr8 i v).ramByte a = s.ramByte a := by
  rw [State.wr8_ramByte, if_neg h]

theorem State.wr16_ramByte_other (s : State) (i : Word) (v : BitVec 16) {a : Nat} (h : a / 2 ≠ s.mask16 i) :
    (s.wr16 i v).ramByte a = s.ramByte a := by
  rw [State.wr16_ramByte, if_neg (by omega), if_neg (by omega)]

theorem State.wr32_ramByte_other (s : State) (i v : Word) {a : Nat} (h : a / 4 ≠ s.mask32 i) :
    (s.wr32 i v).ramByte a = s.ramByte a := by
  rw [State.wr32_ramByte, if_neg (by omega), if_neg (by omega), if_neg (by omega), if_neg (by omega)]

theorem State.pairWr8_rd8 (s : State) (i : Word) (v : Byte) (h : BitVec 2) : (s.pairWr8 i v h).rd8 i = v := by
  unfold State.pairWr8
  split
  · exact s.rd8_wr8 i v
  · exact s.rd8_wr8 i v

theorem State.pairRd16_pairWr16 (s : State) (i : Word) (v : BitVec 16) (h : BitVec 2) :
    (s.pairWr16 i v h).pairRd16 i = (v, h) := by
  obtain ⟨-, -, hread, hhid⟩ := s.pairWr16_frame i v h
  exact Prod.ext hread ((hhid _).trans (if_pos rfl))

/-- Settles O14: the bytes and the hidden entries after each write are the frames of `Laws/Memory.lean`. -/
theorem rdramAndHiddenAccesses : Obligations.RdramAndHiddenAccesses := by
  unfold Obligations.RdramAndHiddenAccesses
  refine ⟨fun s i => ⟨rfl, s.rd16_toNat i, s.rd32_toNat i, fun v => ⟨s.rd8_wr8 i v, fun a => s.wr8_ramByte_other i v⟩,
    fun v => ⟨s.rd16_wr16 i v, fun a => s.wr16_ramByte_other i v⟩,
    fun v => ⟨s.rd32_wr32 i v, fun a => s.wr32_ramByte_other i v⟩⟩, fun s i => ⟨?_, ?_, ?_, s.pairWr8_rd8 i, ?_⟩⟩
  · intro v h
    obtain ⟨-, -, -, hhid⟩ := s.pairWr16_frame i v h
    exact ⟨s.pairRd16_pairWr16 i v h, fun u hu => (hhid u).trans (if_neg hu)⟩
  · intro v h heven u
    obtain ⟨-, -, hhid⟩ := s.pairWr8_frame i v h
    exact (hhid u).trans (if_neg (by omega))
  · intro v h hodd
    obtain ⟨-, -, hhid⟩ := s.pairWr8_frame i v h
    exact ⟨(hhid _).trans (if_pos ⟨hodd, rfl⟩), fun u hu => (hhid u).trans (if_neg fun k => hu k.2)⟩
  · intro v h0 h1
    obtain ⟨-, -, hread, hhid⟩ := s.pairWr32_frame i v h0 h1
    refine ⟨hread, (hhid _).trans ((if_neg (Nat.ne_of_lt (Nat.lt_succ_self _))).trans (if_pos rfl)),
      (hhid _).trans (if_pos rfl), fun u hu => (hhid u).trans ?_⟩
    have hword : u / 2 ≠ s.mask32 i := hu
    rw [if_neg (by omega), if_neg (by omega)]

/-! ### A renderer stores in its spans, or crashes (R570, R572) -/

theorem renderFill_of_crash (start stop : BitVec 12) (flip : Bool) (h : crashConfig 3 s = true) :
    s.renderFill start stop flip = s.raiseCrash := by
  unfold State.renderFill
  split
  · rfl
  · next hsize =>
    have hz : (s.gs.img.fbSize == 0) = false := beq_false_of_ne hsize
    rw [crashConfig, hz] at h
    exact if_pos (by simpa using h)

/-- A copy that answers found a 32 bpp framebuffer and crashed, or a 16 bpp one and drew. -/
theorem renderCopy_cases {start stop : BitVec 12} {tilenum : BitVec 3} {flip : Bool}
    (h : s.renderCopy start stop tilenum flip = .ok t) :
    (crashConfig 2 s = true ∧ t = s.raiseCrash) ∨
    (crashConfig 2 s = false ∧ Stage (imageBytes s start.toInt stop.toInt flip) s t) := by
  by_cases h3 : s.gs.img.fbSize = 3
  · rw [State.renderCopy, if_pos h3] at h
    cases h
    exact .inl ⟨by simp [crashConfig, h3], rfl⟩
  · by_cases h2 : s.gs.img.fbSize = 2
    · exact .inr ⟨by rw [crashConfig, h2]; rfl, Stage.renderCopy h2 h⟩
    · rw [State.renderCopy, if_neg h3, if_neg h2] at h
      cases h

/-! ### Framebuffer accesses of a given size (R146) -/

/-- A read latches a pixel whose alpha is a coverage in bits 7:5 (R22, R499). -/
theorem Stage.latchCoverage {W : Nat → Prop} {x : FbPixel} (hx : x.color.a &&& 0xE0 = x.color.a) (pre : Bool) :
    Stage W s (s.latchPixel x pre) := by
  unfold State.latchPixel
  cases pre with
  | true => exact .setCol _ ⟨rfl, rfl, rfl, rfl, rfl, rfl, rfl⟩ id fun hm _ => ⟨hm, hx⟩
  | false => exact .setCol _ ⟨rfl, rfl, rfl, rfl, rfl, rfl, rfl⟩ id fun _ hp => ⟨hx, hp⟩

/-! The pixel that a read of a given size names is the pixel of a framebuffer of that size. -/

theorem State.fbPixel8_alpha (s : State) (p : Word) : (s.fbPixel8 p).color.a &&& 0xE0 = (s.fbPixel8 p).color.a :=
  (s.setImg { s.gs.img with fbSize := 1 }).fbPixel_alpha p

theorem State.fbPixel16_alpha (s : State) (p : Word) : (s.fbPixel16 p).color.a &&& 0xE0 = (s.fbPixel16 p).color.a :=
  (s.setImg { s.gs.img with fbSize := 2 }).fbPixel_alpha p

theorem State.fbPixel32_alpha (s : State) (p : Word) : (s.fbPixel32 p).color.a &&& 0xE0 = (s.fbPixel32 p).color.a :=
  (s.setImg { s.gs.img with fbSize := 3 }).fbPixel_alpha p

theorem Stage.fbWrite16 {W : Nat → Prop} (o : FbOperands) (hw : ∀ a, a / 2 = s.mask16 (s.fbIndex16 o.curpixel) → W a) :
    Stage W s (s.fbWrite16 o) := by
  unfold State.fbWrite16
  simp only
  split
  · exact .pairWr16 _ _ _ hw
  · exact .pairWr16 _ _ _ hw

theorem Stage.zcompareDisabled {W : Nat → Prop} (o : ZOperands) : Stage W s (s.zcompareDisabled o).st :=
  (Stage.shifters _ _).trans (.setFlags _ rfl)

/-! ### The operations of a rendering -/

/-- The operations that the sequencer issues while it renders (R120 (b), R194): all but the commands and rectangles, the edge
walk, and the two that recompute derived registers. -/
def isRendering : Instr → Bool
  | .drawTri _ | .fillRect _ _ _ _ | .texRect _ _ _ _ _ _ _ _ _ => false
  | .setKeyGb _ _ _ _ _ _ | .setKeyR _ _ _ | .setConvert _ _ _ _ _ _ | .setScissor _ _ _ _ _ _ | .setPrimDepth _ _ => false
  | .setOtherModes _ | .setCombineMode _ | .setTileSize _ _ _ _ _ | .loadTile _ _ _ _ _ | .setTile _ => false
  | .setFillColor _ | .setFogColor _ _ _ _ | .setBlendColor _ _ _ _ | .setPrimColor _ _ _ _ _ _ | .setEnvColor _ _ _ _ => false
  | .setZImage _ | .setColorImage _ _ _ _ => false
  | .edgewalk _ | .deduceDerivatives | .recomputeTile _ => false
  | _ => true

/-- What an operation of a rendering may do: raise the crash and nothing else, or be a stage, up to the result it latches;
the stage stores nothing unless R92 gives the operation a write. -/
inductive RenderingStep (i : Instr) (s t : State) : Prop where
  | crash (hcfg : crashes i s = true) (ht : t = s.raiseCrash)
  | stage (hcfg : crashes i s = false) (hs : Stage (fun _ => writesRam i = true) s (t.setRet s.ret))

/-- A stage that returns nothing. -/
theorem RenderingStep.plain (hs : Stage (fun _ => writesRam i = true) s t) (hcfg : crashes i s = false := by rfl) :
    RenderingStep i s t :=
  .stage hcfg (by rw [← hs.ret]; exact hs)

/-- A stage whose result goes to the latch (log entry 11). -/
theorem RenderingStep.latched (hs : Stage (fun _ => writesRam i = true) s t) (r : Ret)
    (hcfg : crashes i s = false := by rfl) : RenderingStep i s (t.setRet r) :=
  .stage hcfg (by rw [← hs.ret]; exact hs)

/-- An operation that only returns. -/
theorem RenderingStep.returned (r : Ret) (hcfg : crashes i s = false := by rfl) : RenderingStep i s (s.setRet r) :=
  .latched (.refl s) r hcfg

theorem RenderingStep.of_retOf {α : Type} {mk : α → Ret} {x : Except Refusal α} (h : retOf s mk x = .next t)
    (hcfg : crashes i s = false := by rfl) : RenderingStep i s t := by
  cases x with
  | ok v => cases h; exact .returned _ hcfg
  | error e => cases h

/-- A renderer, which either crashes or stores in the bytes `W`. -/
theorem RenderingStep.of_renderer {W : Nat → Prop} (hw : writesRam i = true)
    (h : (crashes i s = true ∧ t = s.raiseCrash) ∨ (crashes i s = false ∧ Stage W s t)) : RenderingStep i s t := by
  obtain ⟨hcfg, ht⟩ | ⟨hcfg, hs⟩ := h
  · exact .crash hcfg ht
  · exact .plain (hs.mono fun _ _ => hw) hcfg

/-- One case per operation that touches more than the latch, by its `Stage` lemma. -/
theorem exec_rendering (hi : isRendering i = true) (h : exec i s = .next t) : RenderingStep i s t := by
  cases i with
  | drawTri | fillRect | texRect | setKeyGb | setKeyR | setConvert | setScissor | setPrimDepth | setOtherModes
  | setCombineMode | setTileSize | loadTile | setTile | setFillColor | setFogColor | setBlendColor | setPrimColor
  | setEnvColor | setZImage | setColorImage | edgewalk | deduceDerivatives | recomputeTile => cases hi
  | renderSpans start stop tilenum flip => exact .of_renderer rfl (renderSpans_cases (ofExcept_next h))
  | renderCopy start stop tilenum flip => exact .of_renderer rfl (renderCopy_cases (ofExcept_next h))
  | renderFill start stop flip =>
    cases h
    cases hcfg : crashConfig 3 s with
    | true => exact .crash hcfg (renderFill_of_crash _ _ _ hcfg)
    | false => exact .plain ((Stage.renderFill _ _ _ hcfg).mono fun _ _ => rfl) hcfg
  | render1cycle start stop tilenum flip => exact .plain ((Stage.render1cycle (ofExcept_next h)).mono fun _ _ => rfl)
  | render2cycle start stop tilenum flip => exact .plain ((Stage.render2cycle (ofExcept_next h)).mono fun _ _ => rfl)
  | texture1cycle o => exact .plain (.texture1cycle (ofExcept_next h))
  | texture2cycle o => exact .plain (.texture2cycle (ofExcept_next h))
  | texCycle | lodCopy | tmemFetch1 | tmemFetchQuad | tmemFetchTlut | copyTexel16 => exact .of_retOf h
  | rgbazCorrect o => cases h; exact .latched (.rgbazCorrect o) _
  | cvgBuild line flip => cases h; exact .plain (.cvgBuild _ flip)
  | combine1cycle ad cvg => cases h; exact .latched (.combine1cycle ad cvg) _
  | combine2cycle ad cvg => cases h; exact .latched (.combine2cycle ad cvg) _
  | finishCycle ad cvg bypass => cases h; exact .latched (.finishCycle ad cvg bypass) _
  | alphaCompare alpha => cases h; exact .latched (.alphaCompare alpha) _
  | blend1cycle o => cases h; exact .latched (.blend1cycle o) _
  | blend2cycle o acalpha => cases h; exact .latched (.blend2cycle o acalpha) _
  | zcompare o => cases h; exact .latched (.zcompare o) _
  | zcompareDisabled o => cases h; exact .latched (.zcompareDisabled o) _
  | shifters dz raw => cases h; exact .plain (.shifters dz raw)
  | zStore z sz dz => cases h; exact .plain (.zStore z sz dz fun _ _ => rfl)
  | irand => cases h; exact .latched (.irand s) _
  | ditherNoise x y cd ad => cases h; exact .latched (.ditherNoise x y cd ad) _
  | fbRead4 p pre => cases h; exact .latched (.latchCoverage rfl pre) _
  | fbRead8 p pre => cases h; exact .latched (.latchCoverage (s.fbPixel8_alpha p) pre) _
  | fbRead16 p pre => cases h; exact .latched (.latchCoverage (s.fbPixel16_alpha p) pre) _
  | fbRead32 p pre => cases h; exact .latched (.latchCoverage (s.fbPixel32_alpha p) pre) _
  | fbWrite4 o => cases h; exact .plain (.wr8 _ _ rfl)
  | fbWrite8 o => cases h; exact .plain (.pairWr8 _ _ _ rfl)
  | fbWrite16 o => cases h; exact .plain (.fbWrite16 o fun _ _ => rfl)
  | fbWrite32 o => cases h; exact .plain (.pairWr32 _ _ _ _ fun _ _ => rfl)
  | fbFill8 p => cases h; exact .plain (.pairWr8 _ _ _ rfl)
  | fbFill16 p => cases h; exact .plain (.pairWr16 _ _ _ fun _ _ => rfl)
  | fbFill32 p => cases h; exact .plain (.pairWr32 _ _ _ _ fun _ _ => rfl)
  | _ => cases h; exact .returned _

/-! ### Which operations write memory (R92, R344) -/

/-- What an operation may do to the memories: TMEM changes only under `LOAD_TILE`, RDRAM and the hidden store only under the
writers of R92. -/
structure MemoryStep (i : Instr) (s t : State) : Prop where
  tmem : (∀ tile sl tl sh th, i ≠ .loadTile tile sl tl sh th) → SameTmem s t
  ram : writesRam i = false → SameRam s t
  size : t.ramExtra = s.ramExtra

/-- An operation that writes only registers. -/
theorem MemoryStep.of_registers (he : t = { s with gs := t.gs, ret := t.ret }) : MemoryStep i s t := by
  rw [he]
  exact ⟨fun _ _ => rfl, fun _ => ⟨fun _ => rfl, fun _ => rfl⟩, rfl⟩

theorem RenderingStep.memory (h : RenderingStep i s t) : MemoryStep i s t := by
  cases h with
  | crash hcfg ht => exact .of_registers (by rw [ht]; rfl)
  | stage hcfg hs =>
    have htmem : t.tmem = s.tmem := hs.tmem
    exact {
      tmem := fun _ a => congrArg (storeGet unlistedByte · a) htmem
      ram := fun hro => ⟨fun a => hs.ram a (by simp [hro]), fun u => hs.hidden u (by simp [hro])⟩
      size := hs.control.ramExtra }

/-- A draw may write RDRAM and the hidden store; it leaves TMEM alone, in its walk and in its renderer. -/
theorem MemoryStep.of_drawTri {c : TriCmd} (hw : writesRam i = true) (h : s.drawTri c = .ok t) : MemoryStep i s t where
  tmem := fun _ a => by
    obtain ⟨w, r, hwalk, -, rfl, hend⟩ := drawTri_cases h
    have hw : w.tmem = s.tmem := by rw [hwalk.frame, State.drawBegin_eq]
    have hr : r.tmem = w.tmem := by
      obtain ⟨-, rfl⟩ | ⟨-, W, hs⟩ := hend
      · rfl
      · exact hs.tmem
    exact congrArg (storeGet unlistedByte · a) (hr.trans hw)
  ram := fun hro => by rw [hw] at hro; cases hro
  size := (drawTri_step h).control.ramExtra

/-- One case per kind of operation: a draw, the walk, `LOAD_TILE`, the register commands, and the operations of a rendering. -/
theorem exec_memory (h : exec i s = .next t) : MemoryStep i s t := by
  cases i with
  | drawTri c => exact .of_drawTri rfl (ofExcept_next h)
  | fillRect xl yl xh yh => exact .of_drawTri rfl (ofExcept_next h)
  | texRect xl yl tile xh yh a b dsdx dtdy => exact .of_drawTri rfl (ofExcept_next h)
  | edgewalk c =>
    cases h
    exact .of_registers (by rw [(State.edgewalk_frame c).frame]; rfl)
  | loadTile tile sl tl sh th =>
    cases h
    exact ⟨fun hne => absurd rfl (hne tile sl tl sh th), fun _ => ⟨fun _ => rfl, fun _ => rfl⟩, rfl⟩
  | setKeyGb | setKeyR | setConvert | setScissor | setPrimDepth | setOtherModes | setCombineMode | setTileSize | setTile
  | setFillColor | setFogColor | setBlendColor | setPrimColor | setEnvColor | setZImage | setColorImage
  | deduceDerivatives | recomputeTile => cases h; exact .of_registers rfl
  | _ => exact (exec_rendering rfl h).memory

/-- Settles O11: each operation's `MemoryStep`. -/
theorem memoryIsWrittenOnlyByItsOperations : Obligations.MemoryIsWrittenOnlyByItsOperations := by
  unfold Obligations.MemoryIsWrittenOnlyByItsOperations
  intro i s t h
  obtain ⟨htmem, hram, hsize⟩ := exec_memory h
  exact ⟨htmem, hram, hsize⟩

end Sys2Proof.Machine

end

/-! ## The encoding family: records, their decoder, and what the decoded operations expand to (`30_encoding.md`)

`decode_encode` is the round trip of the records (R121 to R130, R150); the tag alone selects the operation. The rest follows the
selections of R146 and the expansion of R150: the rectangles are their `DRAW_TRI`, the texel fetches their arms, the renderers
their pixels. -/

section

namespace Sys2Proof

/-! ### What the decoder gives -/

/-- The flags of a decoded `DRAW_TRI` are the low three bits of its tag (R121). -/
theorem decodeTri_flags (b : Byte) (bs : List Byte) : (decodeTri b bs).shade = b.getLsbD 2 ∧
    (decodeTri b bs).texture = b.getLsbD 1 ∧ (decodeTri b bs).zbuf = b.getLsbD 0 := ⟨rfl, rfl, rfl⟩

/-- A decoded `DRAW_TRI` is well-formed: each group is present or was read as zeros. -/
theorem decodeTri_wf (b : Byte) (bs : List Byte) : (decodeTri b bs).wf = true := by
  unfold TriCmd.wf decodeTri
  simp only [Bool.and_eq_true]
  refine ⟨⟨?_, ?_⟩, ?_⟩
  · cases b.getLsbD 2 <;> rfl
  · cases b.getLsbD 1 <;> rfl
  · cases b.getLsbD 0 <;> rfl

theorem decode_wf {bs : List Byte} {i : Instr} (h : decode bs = .ok i) : i.wf = true := by
  unfold decode at h
  split at h
  · cases h
  · split at h
    · cases h; exact decodeTri_wf _ _
    · split at h <;> cases h <;> rfl

/-- The values of byte 0 that are tags: the 25 of R121 and the two of the pseudo-operations (log entry 2). -/
def recordTags : List Nat :=
  [0x08, 0x09, 0x0A, 0x0B, 0x0C, 0x0D, 0x0E, 0x0F, 0x2A, 0x2B, 0x2C, 0x2D, 0x2E, 0x2F, 0x32, 0x34, 0x35, 0x37,
    0x38, 0x39, 0x3A, 0x3B, 0x3C, 0x3E, 0x3F, 0x40, 0x41]

/-- Two records with one tag decode to one operation. -/
theorem decode_sameTag {b : Byte} (h : b.toNat ∈ recordTags) (bs cs : List Byte) :
    ∃ i j, decode (b :: bs) = .ok i ∧ decode (b :: cs) = .ok j ∧ i.ctorIdx = j.ctorIdx := by
  have key : ∀ n ∈ recordTags, ∃ i j, decode (BitVec.ofNat 8 n :: bs) = .ok i ∧
      decode (BitVec.ofNat 8 n :: cs) = .ok j ∧ i.ctorIdx = j.ctorIdx := by
    intro n hn
    fin_cases hn <;> exact ⟨_, _, rfl, rfl, rfl⟩
  have := key _ h
  rwa [BitVec.ofNat_toNat, BitVec.setWidth_eq] at this

/-- A byte 0 that is no tag is rejected by name. -/
theorem decode_unknownTag {b : Byte} (h : b.toNat ∉ recordTags) (bs : List Byte) :
    decode (b :: bs) = .error (.unknownTag b) := by
  have htri : ¬ b.toNat / 8 = 1 := fun hd => h (by simp only [recordTags, List.mem_cons]; omega)
  unfold decode
  simp only [htri, if_false]
  split <;> simp_all [recordTags]

/-! ### Decoding what was encoded -/

/-- `decode` takes back what `encode` gives, whatever bytes follow (R121 to R130, R150): the `DRAW_TRI` record by
`decodeTri_encodeTri`, every other record field by field, and a stage operation has none. -/
theorem decode_encode {i : Instr} {bs : List Byte} (hwf : i.wf = true) (h : encode i = some bs) (rest : List Byte) :
    decode (bs ++ rest) = .ok i := by
  cases i with
  | drawTri c =>
    cases h
    obtain ⟨b, cs, hcs, htag, hread⟩ := decodeTri_encodeTri c hwf rest
    rw [hcs, List.cons_append, decode_tri b _ htag, hread]
  | setKeyGb | setKeyR | setConvert | setScissor | setPrimDepth | setOtherModes | setTileSize | loadTile | setTile
  | setFillColor | setFogColor | setBlendColor | setPrimColor | setEnvColor | setCombineMode | setZImage | setColorImage
  | fillRect | texRect =>
    cases h
    simp [decode, decodeSetKeyGb, decodeSetKeyR, decodeSetConvert, decodeSetScissor, decodeSetPrimDepth,
      decodeSetOtherModes, decodeSetTileSize, decodeLoadTile, decodeSetTile, decodeSetFillColor, decodeSetFogColor,
      decodeSetBlendColor, decodeSetPrimColor, decodeSetEnvColor, decodeSetCombineMode, decodeSetZImage,
      decodeSetColorImage, decodeFillRect, decodeTexRect, takeField_putField, takeFlag_putFlag, takeColor_putColor]
  | _ => cases h

end Sys2Proof
end

section

namespace Sys2Proof.Machine

variable {s t : State}

/-! ### The records -/

/-- Settles O2: `decode` takes back what `encode` gives. -/
theorem encodedRecordDecodes : Obligations.EncodedRecordDecodes := by
  unfold Obligations.EncodedRecordDecodes
  exact fun i bs rest hwf h => decode_encode hwf h rest

/-- Settles O3: a tag selects the operation, any other byte is unknown, and what decodes is well-formed and has a record. -/
theorem tagSelectsOperation : Obligations.TagSelectsOperation := by
  unfold Obligations.TagSelectsOperation
  refine ⟨fun b bs cs => ⟨⟨fun h => decode_sameTag h bs cs, fun h => decode_unknownTag h bs⟩, fun h => ?_⟩,
    fun bs i h => ⟨decode_wf h, decode_hasRecord h⟩⟩
  exact ⟨decodeTri b bs, decode_tri b bs h, decodeTri_flags b bs⟩

/-- Settles O1: the decoder reads each record field by field. -/
theorem sampleRecordsDecode : Obligations.SampleRecordsDecode := by
  unfold Obligations.SampleRecordsDecode
  exact ⟨rfl, rfl, rfl, rfl, rfl, rfl⟩

/-! ### A step that runs no command -/

theorem step_busy (h : s.gs.seq.phase ≠ .idle) : step s = .next s := by
  unfold step
  cases hp : s.gs.seq.phase with
  | idle => exact absurd hp h
  | edgewalk => rfl
  | render => rfl

theorem step_noRecord (h : s.port = []) : step s = .next s := by
  unfold step
  rw [h]
  cases s.gs.seq.phase <;> rfl

theorem step_rejected {rec : List Byte} {rest : List (List Byte)} {e : Reject} (hidle : s.gs.seq.phase = .idle)
    (hport : s.port = rec :: rest) (hdec : decode rec = .error e) : step s = .next (s.setPort rest) := by
  unfold step
  rw [hidle, hport]
  simp only [hdec]

/-- Settles O5: each clause is the arm of `step` for that case. -/
theorem stepWithoutCommand : Obligations.StepWithoutCommand := by
  unfold Obligations.StepWithoutCommand
  exact ⟨fun s => step_busy, fun s => step_noRecord, fun s rec rest e => step_rejected⟩

/-! ### The refusals (R160, R240, R288, R302, R340) -/

theorem formatCheck_reserved {x : Tile} (h : 5 ≤ x.format.toNat) : formatCheck x = .error .reservedTileFormat :=
  if_neg (Nat.not_lt.2 h)

theorem State.tmemFetchTlut_reserved (m : State) (n : BitVec 3) (a : BitVec 13) (sd : BitVec 11) (b : BitVec 13)
    (td : BitVec 11) (u : Bool) (h : 5 ≤ (m.tile n).format.toNat) :
    m.tmemFetchTlut n a sd b td u = .error .reservedTileFormat := by
  unfold State.tmemFetchTlut
  simp only [formatCheck_reserved h]

theorem State.copyTexel16_reserved (m : State) (n : BitVec 3) (c d : BitVec 16) (p : BitVec 2)
    (h : 5 ≤ (m.tile n).format.toNat) : m.copyTexel16 n c d p = .error .reservedTileFormat := by
  unfold State.copyTexel16
  simp only [formatCheck_reserved h]

theorem State.copyTexel16_size (m : State) (n : BitVec 3) (c d : BitVec 16) (p : BitVec 2)
    (hf : (m.tile n).format.toNat < 5) (ht : Om.enTlut m.gs.om = false) (hs : (m.tile n).size ≠ 2) :
    m.copyTexel16 n c d p = .error .copyTexelSize := by
  have hc : formatCheck (m.tile n) = .ok () := if_pos hf
  unfold State.copyTexel16
  simp only [hc, ht, hs, Bool.false_eq_true, if_false]

theorem State.renderCopy_size (m : State) (start stop : BitVec 12) (n : BitVec 3) (flip : Bool)
    (h : m.gs.img.fbSize.toNat < 2) : m.renderCopy start stop n flip = .error .copyFramebufferSize := by
  have h3 : m.gs.img.fbSize ≠ 3 := fun e => by simp [e] at h
  have h2 : m.gs.img.fbSize ≠ 2 := fun e => by simp [e] at h
  unfold State.renderCopy
  rw [if_neg h3, if_neg h2]

/-- Settles O28: each clause is the refusal of the operation's meaning, by name. -/
theorem assertionsAreRefused : Obligations.AssertionsAreRefused := by
  unfold Obligations.AssertionsAreRefused
  intro m n s row sss sst c d p start stop flip
  refine ⟨fun h => ?_, fun h => ⟨fun sd td u => ?_, ?_⟩, fun h => ?_, fun h => ?_, fun hf ht hs => ?_⟩
  · exact congrArg (retOf m .texel) (m.fetchTile_refused _ s row h)
  · exact congrArg (retOf m .quad) (m.tmemFetchTlut_reserved n s sd row td u h)
  · exact congrArg (retOf m .texel16) (m.copyTexel16_reserved n c d p h)
  · exact congrArg ofExcept (m.renderCopy_size start stop n flip h)
  · exact congrArg (retOf m fun l : LodC => .lodCopy l.sss l.sst l.tile) (if_pos h)
  · exact congrArg (retOf m .texel16) (m.copyTexel16_size n c d p hf ht hs)

/-! ### Texel fetches (R302, R304, R306) -/

theorem selectTmemFetch_isSome {k : BitVec 5} (n : BitVec 3) (a b : BitVec 13) (h : k.toNat < 20) :
    (selectTmemFetch k n a b).isSome = true := by
  unfold selectTmemFetch
  generalize k.toNat = j at h
  interval_cases j <;> rfl

theorem selectTmemFetch_none {k : BitVec 5} (n : BitVec 3) (a b : BitVec 13) (h : 20 ≤ k.toNat) :
    selectTmemFetch k n a b = none := by
  unfold selectTmemFetch
  split
  case h_21 => rfl
  all_goals omega

/-- `TMEM_FETCH_1` is the arm that `notlutswitch` selects. -/
theorem exec_tmemFetch1_arm {m : State} {n : BitVec 3} {a b : BitVec 13} {i : Instr}
    (h : selectTmemFetch (m.tile n).notlutswitch n a b = some i) : exec (.tmemFetch1 n a b) m = exec i m := by
  have hk : (m.tile n).notlutswitch.toNat < 20 := by
    by_contra hk
    rw [selectTmemFetch_none n a b (Nat.not_lt.1 hk)] at h
    cases h
  show retOf m .texel (m.fetchTile (m.tile n) a b) = exec i m
  unfold selectTmemFetch at h
  unfold State.fetchTile
  generalize (m.tile n).notlutswitch.toNat = k at h hk ⊢
  interval_cases k <;> cases h <;> rfl

theorem exec_tmemFetch1_next {m : State} {n : BitVec 3} {a b : BitVec 13} {c : Color 9} (h : m.tmemFetch1 n a b = .ok c) :
    exec (.tmemFetch1 n a b) m = .next { m with ret := .texel c } := congrArg (retOf m .texel) h

/-- A coordinate and its step, as integers of 13 bits. -/
theorem toInt_add_signExtend (a : BitVec 13) (d : BitVec 11) :
    (a + d.signExtend 13).toInt = (a.toInt + d.toInt).bmod 0x2000 := by
  rw [BitVec.toInt_add, BitVec.toInt_signExtend_of_le (by decide)]

/-- Settles O39: the fetch arms agree switch by switch, and a quad without TLUT is its four single fetches. -/
theorem fetchDispatchAndQuad : Obligations.FetchDispatchAndQuad := by
  unfold Obligations.FetchDispatchAndQuad
  refine ⟨fun m n s row => ⟨fun i => exec_tmemFetch1_arm, fun h => ⟨selectTmemFetch_isSome n s row h, ?_⟩,
    selectTmemFetch_none n s row⟩, fun m n s row sd td upper => ⟨fun ht h => ?_, fun ht => ?_⟩⟩
  · obtain ⟨c, hc⟩ := m.fetchTile_ok _ s row h
    exact ⟨c, exec_tmemFetch1_next hc⟩
  · have fetch := fun a b => m.fetchTile_ok (m.tile n) a b h
    obtain ⟨c0, h0⟩ := fetch s row
    obtain ⟨c1, h1⟩ := fetch (s + sd.signExtend 13) row
    obtain ⟨c2, h2⟩ := fetch s (row + td.signExtend 13)
    obtain ⟨c3, h3⟩ := fetch (s + sd.signExtend 13) (row + td.signExtend 13)
    have hq : m.tmemFetchQuad n s sd row td upper = .ok ⟨c0, c1, c2, c3⟩ := by
      unfold State.tmemFetchQuad State.tmemFetch1
      simp only [ht, h0, h1, h2, h3, Bool.false_eq_true, if_false]
    exact ⟨⟨c0, c1, c2, c3⟩, s + sd.signExtend 13, row + td.signExtend 13, toInt_add_signExtend s sd,
      toInt_add_signExtend row td, congrArg (retOf m .quad) hq, exec_tmemFetch1_next h0, exec_tmemFetch1_next h1,
      exec_tmemFetch1_next h2, exec_tmemFetch1_next h3⟩
  · exact congrArg (retOf m .quad) (if_pos ht)

/-! ### The rectangles (R150) -/

theorem or_three (n : Nat) : n ||| 3 = n / 4 * 4 + 3 := by
  have hdiv : (n ||| 3) / 4 = n / 4 := by
    have := Nat.or_div_two_pow (a := n) (b := 3) (n := 2)
    simpa using this
  have hmod : (n ||| 3) % 4 = 3 := by
    have hlow : ∀ k < 4, k ||| 3 = 3 := by decide
    have := Nat.or_mod_two_pow (a := n) (b := 3) (n := 2)
    exact this.trans (hlow (n % 4) (Nat.mod_lt _ (by decide)))
  omega

theorem rectYl_toNat (om : BitVec 64) (yl : BitVec 12) : (rectYl om yl).toNat =
    if Om.cycleType om = 2 ∨ Om.cycleType om = 3 then yl.toNat / 4 * 4 + 3 else yl.toNat := by
  unfold rectYl
  split
  · rw [BitVec.toNat_or]
    exact or_three _
  · rfl

/-- An edge at a rectangle's bound: quarter pixels become 16.16. -/
theorem rectEdge_toNat (x : BitVec 12) : (x.setWidth 32 <<< 14 : Word).toNat = x.toNat * 0x4000 := by
  bv_omega

theorem toInt_append_zeros (v : BitVec 16) : (v ++ 0#16 : BitVec 32).toInt = v.toInt * 0x10000 := by
  have h := toNat_append_eq_add v 0#16
  have h0 : (0#16).toNat = 0 := rfl
  rw [BitVec.toInt_eq_toNat_cond, BitVec.toInt_eq_toNat_cond]
  split <;> split <;> omega

/-- A 5.10 increment becomes 16.16. -/
theorem toInt_increment (v : BitVec 16) : (v.signExtend 32 <<< 11 : Word).toInt = v.toInt * 0x800 := by
  have hlo := BitVec.le_toInt v
  have hhi := BitVec.toInt_lt (x := v)
  rw [BitVec.shiftLeft_eq_mul_twoPow, BitVec.toInt_mul, BitVec.toInt_signExtend_of_le (by decide)]
  have hp : (BitVec.twoPow 32 11).toInt = 0x800 := by decide
  rw [hp]
  exact Int.bmod_eq_of_le (by omega) (by omega)

/-- What makes a state drawable is in its control registers. -/
theorem Drawable.of_control (h : Drawable s) (hc : SameControl s t) : Drawable t := by
  have htile : t.tile = s.tile := by
    funext n
    unfold State.tile
    rw [hc.tiles]
  obtain ⟨htiles, hsize, hlod, htexel⟩ := h
  constructor
  · unfold TilesFetchable
    rwa [htile]
  · rwa [hc.om, hc.img]
  · rwa [hc.om]
  · rwa [hc.om, htile]

/-- A draw completes in a drawable state: the walk keeps the control registers. -/
theorem Drawable.drawTri (h : Drawable s) (c : TriCmd) : ∃ t, s.drawTri c = .ok t := by
  have hc : SameControl s (s.drawBegin.edgewalk c) := (drawBegin_keeps s).1.trans (State.edgewalk_frame c).control
  have hw : Drawable ((s.drawBegin.edgewalk c).setPhase .render) := h.of_control { hc with }
  obtain ⟨t, ht⟩ := hw.renderSpans _ _ c.tile c.flip
  exact ⟨_, andThen_ok.2 ⟨t, ht, rfl⟩⟩

/-- Settles O22: both rectangles are defined by their expansion, whose fields are the shifted operands. -/
theorem rectanglesExpandToDrawTri : Obligations.RectanglesExpandToDrawTri := by
  unfold Obligations.RectanglesExpandToDrawTri
  intro m xl yl xh yh tile s t dsdx dtdy
  refine ⟨(rectYl m.gs.om yl).setWidth 14, xl.setWidth 32 <<< 14, xh.setWidth 32 <<< 14, s ++ 0#16, t ++ 0#16,
    dsdx.signExtend 32 <<< 11, dtdy.signExtend 32 <<< 11, ?_, rectEdge_toNat xl, rectEdge_toNat xh,
    toInt_append_zeros s, toInt_append_zeros t, toInt_increment dsdx, toInt_increment dtdy, rfl, rfl, fun h => ⟨?_, ?_⟩⟩
  · rw [BitVec.toNat_setWidth_of_le (by decide), rectYl_toNat]
  · obtain ⟨f, hf⟩ := h.drawTri (fillRectTri m.gs.om xl yl xh yh)
    exact ⟨f, congrArg ofExcept hf⟩
  · obtain ⟨r, hr⟩ := h.drawTri (texRectTri m.gs.om xl yl tile xh yh s t dsdx dtdy)
    exact ⟨r, congrArg ofExcept hr⟩

end Sys2Proof.Machine
end

section

namespace Sys2Proof.Machine

variable {W : Nat → Prop} {s t u : State}

/-! ### What the copy and fill renderers change (R240, R250) -/

/-- Only RDRAM, the hidden store and the sequencer's position differ. -/
def CopyFrame (s t : State) : Prop := t = { s with ram := t.ram, hidden := t.hidden, gs.seq := t.gs.seq }

theorem CopyFrame.refl (s : State) : CopyFrame s s := rfl

theorem CopyFrame.trans (h : CopyFrame s t) (k : CopyFrame t u) : CopyFrame s u := by
  unfold CopyFrame at *
  rw [k, h]

theorem CopyFrame.setSeq (x : Seq) : CopyFrame s (s.setSeq x) := rfl

theorem CopyFrame.of_store (h : t = { s with ram := t.ram, hidden := t.hidden }) : CopyFrame s t := by
  unfold CopyFrame
  rw [h]

theorem copyPixel_frame {flip : Bool} {i length j p : Int} {x : BitVec 12} {l : LodC}
    (h : copyPixel flip i length j x l p s = .ok t) : CopyFrame s t := by
  unfold copyPixel at h
  simp only at h
  split at h
  · obtain ⟨c, -, h⟩ := andThen_ok.1 h
    split at h
    · cases h
      exact .of_store (s.pairWr16_frame _ _ _).1
    · cases h; exact .refl s
  · cases h; exact .refl s

theorem copyGroup_frame {inc : Attrs} {tilenum : BitVec 3} {flip : Bool} {i length g : Int} {v w : CopyVars}
    (h : copyGroup inc tilenum flip i length g v = .ok w) : CopyFrame v.st w.st := by
  obtain ⟨l, -, h⟩ := andThen_ok.1 h
  obtain ⟨m, hm, h⟩ := andThen_ok.1 h
  cases h
  exact forUpE_inv (fun _ m => CopyFrame v.st m) _ _ _ _ (fun p a b _ _ ha hb => ha.trans (copyPixel_frame hb))
    (.setSeq _) hm

theorem copyLine_frame {inc : Attrs} {tilenum : BitVec 3} {flip : Bool} {i : Int}
    (h : copyLine inc tilenum flip i s = .ok t) : CopyFrame s t := by
  unfold copyLine at h
  simp only at h
  split at h
  · obtain ⟨v, hv, h⟩ := andThen_ok.1 h
    cases h
    exact forUpE_inv (fun _ (v : CopyVars) => CopyFrame s v.st) _ _ _ _
      (fun g a b _ _ ha hb => ha.trans (copyGroup_frame hb)) (.setSeq _) hv
  · cases h; exact .setSeq _

theorem renderCopy_frame {start stop : BitVec 12} {tilenum : BitVec 3} {flip : Bool} (hz : s.gs.img.fbSize = 2)
    (h : s.renderCopy start stop tilenum flip = .ok t) : CopyFrame s t := by
  unfold State.renderCopy at h
  rw [hz] at h
  exact forUpE_inv (fun _ t => CopyFrame s t) _ _ _ _ (fun i a b _ _ ha hb => ha.trans (copyLine_frame hb)) (.refl s) h

/-- Only RDRAM, the hidden store, the sequencer's position and the coverage buffer differ. -/
def FillFrame (s t : State) : Prop :=
  t = { s with ram := t.ram, hidden := t.hidden, gs.seq := t.gs.seq, gs.cvgbuf := t.gs.cvgbuf }

theorem FillFrame.refl (s : State) : FillFrame s s := rfl

theorem FillFrame.trans (h : FillFrame s t) (k : FillFrame t u) : FillFrame s u := by
  unfold FillFrame at *
  rw [k, h]

theorem FillFrame.setSeq (x : Seq) : FillFrame s (s.setSeq x) := rfl

theorem FillFrame.of_store (h : t = { s with ram := t.ram, hidden := t.hidden }) : FillFrame s t := by
  unfold FillFrame
  rw [h]

theorem FillFrame.putCvg (p : Nat) (m : Byte) : FillFrame s (s.putCvg p m) := by
  unfold State.putCvg
  split <;> rfl

theorem FillFrame.mapCvg (f : Byte → Byte) (lo hi : Int) : FillFrame s (s.mapCvg f lo hi) :=
  forUp_inv (fun _ t => FillFrame s t) _ _ _ (fun _ _ _ _ h => h.trans (.putCvg _ _)) (.refl s)

theorem FillFrame.cvgSub (a b : Int) (k : Fin 4) (inval : Bool) (l r : BitVec 13) :
    FillFrame s (s.cvgSub a b k inval l r) := by
  unfold State.cvgSub
  simp only
  split
  · exact .mapCvg _ _ _
  · have h := (FillFrame.mapCvg (s := s) (fun m => m &&& ~~~(columnMask k <<< maskShift k)) a
      (if (l.toNat / 8 : Int) < b then l.toNat / 8 else b)).trans (.mapCvg
        (fun m => m &&& ~~~(columnMask k <<< maskShift k)) (if (r.toNat / 8 : Int) < a then a else r.toNat / 8) b)
    split
    · exact (h.trans (.putCvg _ _)).trans (.putCvg _ _)
    · split
      · exact h.trans (.putCvg _ _)
      · exact h

theorem FillFrame.cvgBuild (i : Int) (flip : Bool) : FillFrame s (s.cvgBuild i flip) := by
  unfold State.cvgBuild
  simp only
  generalize (if flip then ((s.spanAt i).rx.toNat : Int) else (s.spanAt i).lx.toNat) = lo
  generalize (if flip then ((s.spanAt i).lx.toNat : Int) else (s.spanAt i).rx.toNat) = hi
  split
  · exact .refl s
  · cases flip <;> exact ((((FillFrame.mapCvg _ _ _).trans (.cvgSub _ _ _ _ _ _)).trans (.cvgSub _ _ _ _ _ _)).trans
      (.cvgSub _ _ _ _ _ _)).trans (.cvgSub _ _ _ _ _ _)

theorem FillFrame.fbFill (p : Word) : FillFrame s (s.fbFill p) := by
  unfold State.fbFill
  split
  · exact .refl s
  · exact .of_store (s.pairWr8_frame _ _ _).1
  · exact .of_store (s.pairWr16_frame _ _ _).1
  · exact .of_store (s.pairWr32_frame _ _ _ _).1

theorem fillLine_frame (flip : Bool) (i : Int) (s : State) : FillFrame s (fillLine flip i s) := by
  unfold fillLine
  simp only
  split
  · refine forUp_inv (fun _ m => FillFrame s m) _ _ _ (fun j m _ _ hm => hm.trans ?_)
      ((FillFrame.setSeq _).trans (.cvgBuild _ _))
    unfold fillPixel
    simp only
    split
    · exact .setSeq _
    · exact (FillFrame.setSeq _).trans (.fbFill _)
  · exact .setSeq _

theorem renderFill_frame (start stop : BitVec 12) (flip : Bool) (hc : crashConfig 3 s = false) :
    FillFrame s (s.renderFill start stop flip) := by
  have h : (¬ s.gs.img.fbSize = 0 ∧ Om.zCompareEn s.gs.om = false) ∧ Om.zUpdateEn s.gs.om = false := by
    simpa [crashConfig] using hc
  obtain ⟨⟨hsize, hcmp⟩, hupd⟩ := h
  unfold State.renderFill
  rw [if_neg hsize, if_neg (by simp [hcmp, hupd])]
  exact forUp_inv (fun _ t => FillFrame s t) _ _ _ (fun i a _ _ ha => ha.trans (fillLine_frame flip i a)) (.refl s)

/-! ### The dispatch and the completion of the renderers (R146, R194) -/

/-- `RENDER_SPANS` is the renderer that the cycle type selects. -/
theorem exec_renderSpans (s : State) (start stop : BitVec 12) (tilenum : BitVec 3) (flip : Bool) :
    exec (.renderSpans start stop tilenum flip) s = exec (selectRenderer (Om.cycleType s.gs.om) start stop tilenum flip) s := by
  show ofExcept (s.renderSpans start stop tilenum flip) = _
  unfold State.renderSpans
  rcases size_cases (Om.cycleType s.gs.om) with h | h | h | h <;> rw [h] <;> rfl

/-- A cycle renderer that completes is a stage, so it leaves what `Stage` lists. -/
theorem Stage.cycleRenderer (h : Stage W s t) : SameControl s t ∧ SameTmem s t ∧
    t.gs.span = s.gs.span ∧ t.gs.slopes = s.gs.slopes ∧ t.gs.misc = s.gs.misc ∧ t.gs.der = s.gs.der ∧ t.ret = s.ret :=
  ⟨h.control, fun a => congrArg (storeGet unlistedByte · a) h.tmem, h.span, h.slopes, h.misc, h.der, h.ret⟩

theorem exec_cycleRenderer (hs : TilesFetchable s) (start stop : BitVec 12) (tilenum : BitVec 3) (flip : Bool) {i : Instr}
    (hi : i = .render1cycle start stop tilenum flip ∨ i = .render2cycle start stop tilenum flip) :
    ∃ t W, exec i s = .next t ∧ Stage W s t := by
  obtain rfl | rfl := hi
  · obtain ⟨t, ht⟩ := hs.render1cycle start stop tilenum flip
    exact ⟨t, _, congrArg ofExcept ht, .render1cycle ht⟩
  · obtain ⟨t, ht⟩ := hs.render2cycle start stop tilenum flip
    exact ⟨t, _, congrArg ofExcept ht, .render2cycle ht⟩

/-! ### One pixel in either cycle mode (R214, R232)

The pixel bodies of the two modes differ in four of their stages. With `two` for the mode, each of the four is one function, and
the two bodies are one. -/

/-- The texture stage of the mode. -/
def State.textureCycle (two : Bool) (s : State) (o : TexOperands) : Except Refusal State :=
  if two then s.texture2cycle o else s.texture1cycle o

/-- The combiner of the mode; the 1-cycle combiner returns no alpha for the compare. -/
def State.combineCycle (two : Bool) (s : State) (ad : BitVec 3) (cvg : BitVec 4) : Combine2 :=
  if two then s.combine2cycle ad cvg else ⟨(s.combine1cycle ad cvg).1, 0, (s.combine1cycle ad cvg).2⟩

/-- The blender of the mode. -/
def State.blendCycle (two : Bool) (ac : BitVec 9) (s : State) (o : BlendOperands) : Blend :=
  if two then s.blend2cycle o ac else s.blend1cycle o

/-- What a pixel that fails the depth compare leaves. -/
def State.failCycle (two : Bool) (s : State) : State := if two then s.restoreMemory else s

/-- The pixel body of the mode. -/
def pixelCycle (two : Bool) (p : RenderSetup) (i length j : Int) (v : PixelVars) : Except Refusal PixelVars :=
  andThen (v.front p i j length (State.textureCycle two)) fun (v, e, sz) =>
    let c := v.st.combineCycle two v.adith e.cvg
    let m := c.st.fbPixel v.curpixel
    let s := (c.st.latchPixel m two).finishPixel p v sz c.cvg m.memcvg (State.blendCycle two c.acalpha) (State.failCycle two)
    .ok ({ v with st := s }.advance p)

/-- With `pixelCycle` as its pixel body, the scanline loop is the renderer of either mode. -/
theorem exec_renderCycle (two : Bool) (start stop : BitVec 12) (tilenum : BitVec 3) (flip : Bool) (s : State) :
    exec (if two then .render2cycle start stop tilenum flip else .render1cycle start stop tilenum flip) s =
      ofExcept (s.renderLines (pixelCycle two) start stop tilenum flip) := by
  cases two <;> rfl

theorem exec_textureCycle {two : Bool} {o : TexOperands} (h : s.textureCycle two o = .ok t) :
    exec (if two then .texture2cycle o else .texture1cycle o) s = .next t := by
  cases two <;> exact congrArg ofExcept h

theorem exec_combineCycle (two : Bool) (s : State) (ad : BitVec 3) (cvg : BitVec 4) :
    exec (if two then .combine2cycle ad cvg else .combine1cycle ad cvg) s =
      .next ((s.combineCycle two ad cvg).st.setRet
        (if two then .combine2 (s.combineCycle two ad cvg).acalpha (s.combineCycle two ad cvg).cvg
          else .cvg (s.combineCycle two ad cvg).cvg)) := by
  cases two <;> rfl

theorem exec_blendCycle (two : Bool) (s : State) (o : BlendOperands) (ac : BitVec 9) :
    exec (if two then .blend2cycle o ac else .blend1cycle o) s =
      .next ((s.blendCycle two ac o).st.setRet (.blended (s.blendCycle two ac o).written (s.blendCycle two ac o).rgb)) := by
  cases two <;> rfl

theorem TilesFetchable.textureCycle (h : TilesFetchable s) (two : Bool) (o : TexOperands) :
    ∃ t, s.textureCycle two o = .ok t := by
  cases two
  · exact h.texture1cycle o
  · exact h.texture2cycle o

theorem Stage.textureCycle {two : Bool} {o : TexOperands} (h : s.textureCycle two o = .ok t) : Stage W s t := by
  cases two
  · exact .texture1cycle h
  · exact .texture2cycle h

theorem Stage.combineCycle (two : Bool) (ad : BitVec 3) (cvg : BitVec 4) : Stage W s (s.combineCycle two ad cvg).st := by
  cases two
  · exact .combine1cycle ad cvg
  · exact .combine2cycle ad cvg

theorem Stage.blendCycle (two : Bool) (ac : BitVec 9) (o : BlendOperands) : Stage W s (s.blendCycle two ac o).st := by
  cases two
  · exact .blend1cycle o
  · exact .blend2cycle o ac

theorem State.textureCycle_flags {two : Bool} {o : TexOperands} (h : s.textureCycle two o = .ok t) :
    t.gs.flags = s.gs.flags := by
  cases two
  · exact State.texture1cycle_flags h
  · exact State.texture2cycle_flags h

theorem State.combineCycle_flags (two : Bool) (s : State) (ad : BitVec 3) (cvg : BitVec 4) :
    (s.combineCycle two ad cvg).st.gs.flags = s.gs.flags := by
  cases two <;> rfl

/-- The increment of one accumulator, negated when `flip` is 0 (R212). -/
def stepOf (flip : Bool) (d : Word) : Word := if flip then d else -d

/-- The pixel variables at the start of a span, field by field: each accumulator is corrected once by its increment times
"scdiff" (R212). -/
theorem LineVars.begin_eq (l : LineVars) (tilenum : BitVec 3) (flip : Bool) (i : Int) :
    let sp := l.st.spanAt i
    let sl := l.st.gs.slopes
    let diff := BitVec.ofInt 32 (scDiff sp flip % 4096)
    let start := fun (v d : Word) => v + stepOf flip d * diff
    let p := l.st.gs.img.fbWidth.setWidth 32 * BitVec.ofInt 32 i + sp.rx.setWidth 32
    l.begin (l.st.renderSetup tilenum flip) i =
      { acc :=
          { r := start sp.attrs.r sl.dr, g := start sp.attrs.g sl.dg, b := start sp.attrs.b sl.db
            a := start sp.attrs.a sl.da, s := start sp.attrs.s sl.ds, t := start sp.attrs.t sl.dt
            w := start sp.attrs.w sl.dw
            z := if Om.zSourceSel l.st.gs.om then l.st.gs.misc.primitiveZ else start sp.attrs.z sl.dz }
        x := sp.rx
        curpixel := p
        zbcur := (l.st.gs.img.zbAddress.setWidth 32 >>> 1) + p
        cdith := l.cdith
        adith := l.adith
        st := l.st.cvgBuild i flip } := by
  intro sp sl diff start p
  unfold LineVars.begin State.renderSetup
  cases flip <;> cases hz : Om.zSourceSel l.st.gs.om <;>
    simp [hz, State.increments, Attrs.zip, Attrs.map, stepOf, sp, sl, diff, start, p]

/-! ### The stage operations, by what their stage leaves and returns -/

theorem exec_rgbazCorrect {o : CorrectOperands} {sz : BitVec 18} (h : s.rgbazCorrect o = (t, sz)) :
    exec (.rgbazCorrect o) s = .next { t with ret := .depth sz } := by
  show Host.Outcome.next ((s.rgbazCorrect o).1.setRet (.depth (s.rgbazCorrect o).2)) = _
  rw [h]
  rfl

theorem exec_ditherNoise {x y : BitVec 12} {cd cd' : BitVec 15} {ad ad' : BitVec 3}
    (h : s.ditherNoise x y cd ad = (t, cd', ad')) :
    exec (.ditherNoise x y cd ad) s = .next { t with ret := .dither cd' ad' } := by
  show Host.Outcome.next ((s.ditherNoise x y cd ad).1.setRet
    (.dither (s.ditherNoise x y cd ad).2.1 (s.ditherNoise x y cd ad).2.2)) = _
  rw [h]
  rfl

theorem exec_zcompare {o : ZOperands} {pass : Bool} {n : BitVec 4} (h : s.zcompare o = ⟨t, pass, n⟩) :
    exec (.zcompare o) s = .next { t with ret := .zpass pass n } := by
  show Host.Outcome.next ((s.zcompare o).st.setRet (.zpass (s.zcompare o).pass (s.zcompare o).cvg)) = _
  rw [h]
  rfl

/-! ### The run of a pixel through its stages -/

/-- The state in which a pixel's texture stage runs: the position is written, then the coverage bit of the lookup (R214,
R462). -/
def State.enterPixel (s : State) (j : Int) (x : BitVec 12) : State :=
  (s.trackPixel j x).setFlags { s.gs.flags with cvbit := (cvlut (s.cvgAt x.toNat)).cvbit }

theorem Stage.enterPixel (j : Int) (x : BitVec 12) : Stage W s (s.enterPixel j x) :=
  (Stage.trackPixel j x).trans (.setFlags _ rfl)

/-- What the coverage lookup of a pixel returns. -/
def PixelVars.coverage (v : PixelVars) : CvgEntry := cvlut (v.st.cvgAt v.x.toNat)

/-- The stages of one pixel from the texture to the blender, in the order of R214 and R232: the state each leaves and what it
returns, with the equation of each. -/
structure PixelRun (two : Bool) (p : RenderSetup) (i length j : Int) (v : PixelVars) where
  textured : State
  corrected : State
  dithered : State
  combined : State
  latched : State
  compared : State
  blended : State
  sz : BitVec 18
  cdith : BitVec 15
  adith : BitVec 3
  acalpha : BitVec 9
  memcvg : BitVec 3
  cvg : BitVec 4
  zcvg : BitVec 4
  pass : Bool
  written : Bool
  rgb : Rgb 8
  texture : (v.st.enterPixel j v.x).textureCycle two (v.texOperands p i j length) = .ok textured
  correct : textured.rgbazCorrect (v.correctOperands p v.coverage) = (corrected, sz)
  dither : corrected.ditherNoise v.x (BitVec.ofInt 12 i) v.cdith v.adith = (dithered, cdith, adith)
  combine : dithered.combineCycle two adith v.coverage.cvg = ⟨combined, acalpha, cvg⟩
  latch : combined.latchPixel (combined.fbPixel v.curpixel) two = latched
  read : (combined.fbPixel v.curpixel).memcvg = memcvg
  compare : latched.zcompare ⟨v.zbcur, sz, p.dzpix, p.dzpixenc, cvg, memcvg⟩ = ⟨compared, pass, zcvg⟩
  blend : compared.blendCycle two acalpha
    ⟨cdith, compared.gs.flags.blendEn, compared.gs.flags.prewrap, zcvg, v.coverage.cvbit⟩ = ⟨blended, written, rgb⟩

namespace PixelRun

variable {two : Bool} {p : RenderSetup} {i length j : Int} {v : PixelVars}

/-- Where every texel has a meaning, a pixel has a run: no stage but the texture can refuse. -/
theorem nonempty (two : Bool) (p : RenderSetup) (i length j : Int) (h : TilesFetchable v.st) :
    Nonempty (PixelRun two p i length j v) := by
  have hm : TilesFetchable (v.st.enterPixel j v.x) :=
    h.of_stage (Stage.enterPixel (W := fun _ => True) j v.x)
  obtain ⟨t, ht⟩ := hm.textureCycle two (v.texOperands p i j length)
  obtain ⟨corrected, sz, hcor⟩ : ∃ m z, t.rgbazCorrect (v.correctOperands p v.coverage) = (m, z) := ⟨_, _, rfl⟩
  obtain ⟨dithered, cd, ad, hdith⟩ : ∃ m c a,
      corrected.ditherNoise v.x (BitVec.ofInt 12 i) v.cdith v.adith = (m, c, a) := ⟨_, _, _, rfl⟩
  obtain ⟨combined, ac, n, hcomb⟩ : ∃ m a n, dithered.combineCycle two ad v.coverage.cvg = ⟨m, a, n⟩ := ⟨_, _, _, rfl⟩
  obtain ⟨latched, hlatch⟩ : ∃ m, combined.latchPixel (combined.fbPixel v.curpixel) two = m := ⟨_, rfl⟩
  obtain ⟨mc, hread⟩ : ∃ c, (combined.fbPixel v.curpixel).memcvg = c := ⟨_, rfl⟩
  obtain ⟨compared, pass, zn, hz⟩ : ∃ m b k,
      latched.zcompare ⟨v.zbcur, sz, p.dzpix, p.dzpixenc, n, mc⟩ = ⟨m, b, k⟩ := ⟨_, _, _, rfl⟩
  obtain ⟨blended, w, rgb, hb⟩ : ∃ m b c, compared.blendCycle two ac
      ⟨cd, compared.gs.flags.blendEn, compared.gs.flags.prewrap, zn, v.coverage.cvbit⟩ = ⟨m, b, c⟩ := ⟨_, _, _, rfl⟩
  exact ⟨⟨t, corrected, dithered, combined, latched, compared, blended, sz, cd, ad, ac, mc, n, zn, pass, w, rgb,
    ht, hcor, hdith, hcomb, hlatch, hread, hz, hb⟩⟩

variable (r : PixelRun two p i length j v)

theorem textured_stage : Stage W v.st r.textured :=
  (Stage.enterPixel j v.x).trans (.textureCycle r.texture)

theorem corrected_stage : Stage W v.st r.corrected := by
  have h := Stage.rgbazCorrect (W := W) (s := r.textured) (v.correctOperands p v.coverage)
  rw [r.correct] at h
  exact r.textured_stage.trans h

theorem dithered_stage : Stage W v.st r.dithered := by
  have h := Stage.ditherNoise (W := W) (s := r.corrected) v.x (BitVec.ofInt 12 i) v.cdith v.adith
  rw [r.dither] at h
  exact r.corrected_stage.trans h

theorem combined_stage : Stage W v.st r.combined := by
  have h := Stage.combineCycle (W := W) (s := r.dithered) two r.adith v.coverage.cvg
  rw [r.combine] at h
  exact r.dithered_stage.trans h

theorem latched_stage : Stage W v.st r.latched := by
  have h := Stage.latchPixel (W := W) (s := r.combined) v.curpixel two
  rw [r.latch] at h
  exact r.combined_stage.trans h

theorem compared_stage : Stage W v.st r.compared := by
  have h := Stage.zcompare (W := W) (s := r.latched) ⟨v.zbcur, r.sz, p.dzpix, p.dzpixenc, r.cvg, r.memcvg⟩
  rw [r.compare] at h
  exact r.latched_stage.trans h

theorem blended_stage : Stage W v.st r.blended := by
  have h := Stage.blendCycle (W := W) (s := r.compared) two r.acalpha
    ⟨r.cdith, r.compared.gs.flags.blendEn, r.compared.gs.flags.prewrap, r.zcvg, v.coverage.cvbit⟩
  rw [r.blend] at h
  exact r.compared_stage.trans h

/-- No stage between the lookup and the depth compare touches the pixel's coverage bit. -/
theorem compared_cvbit : r.compared.gs.flags.cvbit = v.coverage.cvbit := by
  have h7 := State.zcompare_cvbit r.latched ⟨v.zbcur, r.sz, p.dzpix, p.dzpixenc, r.cvg, r.memcvg⟩
  have h6 := State.latchPixel_flags r.combined (r.combined.fbPixel v.curpixel) two
  have h5 := State.combineCycle_flags two r.dithered r.adith v.coverage.cvg
  have h4 := State.ditherNoise_flags r.corrected v.x (BitVec.ofInt 12 i) v.cdith v.adith
  have h3 : (r.textured.rgbazCorrect (v.correctOperands p v.coverage)).1.gs.flags = r.textured.gs.flags := rfl
  have h2 := State.textureCycle_flags r.texture
  rw [r.compare] at h7
  rw [r.latch] at h6
  rw [r.combine] at h5
  rw [r.dither] at h4
  rw [r.correct] at h3
  rw [h7, h6, h5, h4, h3, h2]
  rfl

/-- The state after the colour of a pixel is written (R214). -/
def stored : State := r.blended.fbWrite
  ⟨v.curpixel, r.rgb.r, r.rgb.g, r.rgb.b, r.compared.gs.flags.blendEn, r.zcvg, r.memcvg⟩

theorem stored_om : r.stored.gs.om = v.st.gs.om :=
  (r.blended_stage.trans (.fbWrite (W := fun _ => True) _ fun _ _ => trivial)).control.om

/-- The state a pixel leaves: its colour is written where it passes the compare and the blender writes it, its depth also where
`z_update_en` is set (R214, R232). -/
def final : State :=
  if r.pass then
    (if r.written then
      (if Om.zUpdateEn v.st.gs.om then r.stored.zStore v.zbcur r.sz p.dzpixenc else r.stored)
    else r.blended)
  else r.compared.failCycle two

theorem front_eq : v.front p i j length (State.textureCycle two) =
    .ok ({ v with st := r.dithered, cdith := r.cdith, adith := r.adith }, v.coverage, r.sz) := by
  have hcov : cvlut ((v.st.trackPixel j v.x).cvgAt v.x.toNat) = v.coverage := rfl
  refine andThen_ok.2 ⟨r.textured, r.texture, ?_⟩
  simp only [hcov, r.correct, r.dither]

/-- The pixel body is its run. -/
theorem pixelCycle_eq : ∃ v', pixelCycle two p i length j v = .ok v' ∧ v'.st = r.final := by
  refine ⟨_, andThen_ok.2 ⟨_, r.front_eq, rfl⟩, ?_⟩
  have hb := r.blend
  rw [← r.compared_cvbit] at hb
  have hz := r.stored_om
  unfold final
  rw [← hz]
  unfold PixelVars.advance State.finishPixel
  simp only [r.combine, r.latch, r.read, r.compare, hb]
  rfl

/-! The stage operations of a run, each as the sequencer issues it. -/

theorem ret : ∀ m ∈ [r.corrected, r.dithered, r.combined, r.latched, r.compared, r.blended], m.ret = v.st.ret := by
  have hret : ∀ {m}, Stage (fun _ => True) v.st m → m.ret = v.st.ret := fun h => h.ret
  simp [hret r.corrected_stage, hret r.dithered_stage, hret r.combined_stage, hret r.latched_stage, hret r.compared_stage,
    hret r.blended_stage]

theorem exec_combine : exec (if two then .combine2cycle r.adith v.coverage.cvg else .combine1cycle r.adith v.coverage.cvg)
    r.dithered = .next { r.combined with ret := if two then .combine2 r.acalpha r.cvg else .cvg r.cvg } := by
  rw [exec_combineCycle, r.combine]
  rfl

theorem exec_read : exec (selectFbRead v.st.gs.img.fbSize v.curpixel two) r.combined =
    .next { r.latched with ret := .memcvg r.memcvg } := by
  have himg := (r.combined_stage (W := fun _ => True)).control.img
  rw [← himg, exec_selectFbRead, r.latch, r.read]
  rfl

theorem exec_blend :
    let o : BlendOperands := ⟨r.cdith, r.compared.gs.flags.blendEn, r.compared.gs.flags.prewrap, r.zcvg, v.coverage.cvbit⟩
    exec (if two then .blend2cycle o r.acalpha else .blend1cycle o) r.compared =
      .next { r.blended with ret := .blended r.written r.rgb } := by
  intro o
  rw [exec_blendCycle, r.blend]
  rfl

theorem exec_write : exec (selectFbWrite v.st.gs.img.fbSize
    ⟨v.curpixel, r.rgb.r, r.rgb.g, r.rgb.b, r.compared.gs.flags.blendEn, r.zcvg, r.memcvg⟩) r.blended = .next r.stored := by
  have himg := (r.blended_stage (W := fun _ => True)).control.img
  rw [← himg, exec_selectFbWrite]
  rfl

end PixelRun

/-! ### A span of one pixel -/

/-- A valid span's scanline, as the sequencer's ten bits hold it. -/
theorem ofInt_scanline {i : BitVec 12} (h : (s.spanAt i.toInt).validline = true) :
    BitVec.ofInt 10 i.toInt = i.setWidth 10 := by
  rw [← scanline_of_valid h, BitVec.ofInt_natCast, BitVec.ofNat_toNat, BitVec.setWidth_eq]

/-- The pixel variables at the start of the one pixel of scanline `i` (R212): dither values (7, 0), coverage built. -/
def onePixelVars (s : State) (i : BitVec 12) (tilenum : BitVec 3) (flip : Bool) : PixelVars :=
  (LineVars.mk { s with gs.seq.i := i.setWidth 10 } 7 0).begin (s.renderSetup tilenum flip) i.toInt

/-- The increments of the texture coordinates, whatever the source of the depth (R212). -/
theorem renderSetup_inc (s : State) (tilenum : BitVec 3) (flip : Bool) :
    (s.renderSetup tilenum flip).inc.s = stepOf flip s.gs.slopes.ds ∧
    (s.renderSetup tilenum flip).inc.t = stepOf flip s.gs.slopes.dt ∧
    (s.renderSetup tilenum flip).inc.w = stepOf flip s.gs.slopes.dw := by
  unfold State.renderSetup State.increments stepOf
  cases flip <;> cases Om.zSourceSel s.gs.om <;> exact ⟨rfl, rfl, rfl⟩

theorem renderCycle_one (two : Bool) (i : BitVec 12) (tilenum : BitVec 3) (flip : Bool)
    (hvalid : (s.spanAt i.toInt).validline = true) (hx : (s.spanAt i.toInt).lx = (s.spanAt i.toInt).rx)
    (r : PixelRun two (s.renderSetup tilenum flip) i.toInt 0 0 (onePixelVars s i tilenum flip)) :
    exec (if two then .render2cycle i i tilenum flip else .render1cycle i i tilenum flip) s = .next r.final := by
  obtain ⟨v', hv, hfinal⟩ := r.pixelCycle_eq
  rw [exec_renderCycle, renderLines_one s i tilenum flip hvalid hx, ofInt_scanline hvalid, ← hfinal]
  exact congrArg (fun x => ofExcept (andThen x fun v => .ok v.st)) hv

/-- Settles O25: the selection, the completion lemmas and frames, and for one pixel its `PixelRun`. -/
theorem renderersComplete : Obligations.RenderersComplete := by
  unfold Obligations.RenderersComplete
  refine ⟨fun s start stop tilenum flip => ?_, fun s start stop tilenum flip =>
    ⟨fun i hi hs => ?_, fun hs hz hl hx => ?_, fun hc => ⟨_, rfl, renderFill_frame start stop flip hc⟩⟩, ?_⟩
  · have hsel := exec_renderSpans s start stop tilenum flip
    refine ⟨fun h => by rw [hsel, h]; rfl, fun h => by rw [hsel, h]; rfl, fun h => by rw [hsel, h]; rfl,
      fun h => by rw [hsel, h]; rfl, fun h => ?_⟩
    obtain ⟨t, ht⟩ := h.renderSpans start stop tilenum flip
    exact ⟨t, congrArg ofExcept ht⟩
  · obtain ⟨t, W, ht, hst⟩ := exec_cycleRenderer hs start stop tilenum flip hi
    exact ⟨t, ht, hst.cycleRenderer⟩
  · obtain ⟨t, ht⟩ := CopyReady.renderCopy ⟨hs, hl, hx⟩ hz start stop tilenum flip
    exact ⟨t, congrArg ofExcept ht, renderCopy_frame hz ht⟩
  · intro s i tilenum flip two htiles hvalid hx sp sl prim step scdiff start z dzpix p zp tex
    obtain ⟨hds, hdt, hdw⟩ := renderSetup_inc s tilenum flip
    let v := onePixelVars s i tilenum flip
    have hv : v = { acc := ⟨start sp.attrs.r sl.dr, start sp.attrs.g sl.dg, start sp.attrs.b sl.db, start sp.attrs.a sl.da,
                      tex.s, tex.t, tex.w, z⟩
                    x := sp.rx, curpixel := p, zbcur := zp, cdith := 7, adith := 0, st := v.st } :=
      LineVars.begin_eq ⟨{ s with gs.seq.i := i.setWidth 10 }, 7, 0⟩ tilenum flip i.toInt
    have htex : v.texOperands (s.renderSetup tilenum flip) i.toInt 0 0 = tex := by
      unfold PixelVars.texOperands
      rw [hv, hds, hdt, hdw, ofInt_scanline hvalid]
      rfl
    have k1 : Stage (fun _ => True) s v.st :=
      (Stage.setSeq { s.gs.seq with i := i.setWidth 10 } rfl).trans (.cvgBuild i.toInt flip)
    obtain ⟨r⟩ := PixelRun.nonempty two (s.renderSetup tilenum flip) i.toInt 0 0 (htiles.of_stage k1)
    have hcor := congrArg (PixelVars.correctOperands · (s.renderSetup tilenum flip) v.coverage) hv
    have himg := k1.control.img
    have hom := k1.control.om
    refine ⟨v.st, r.textured, r.corrected, r.dithered, r.combined, r.latched, r.compared, r.blended, r.stored,
      r.stored.zStore zp r.sz (dzCompress dzpix), v.coverage.xoff, v.coverage.yoff, v.coverage.cvg, r.cvg, r.zcvg,
      v.coverage.cvbit, r.pass, r.written, r.sz, r.cdith, r.adith, r.memcvg, r.acalpha, r.rgb, ?_, ?_, ⟨rfl, ?_⟩, ?_, ?_,
      r.exec_combine, himg ▸ r.exec_read, exec_zcompare r.compare, r.exec_blend, himg ▸ r.exec_write, rfl, ?_⟩
    · exact fun m hm => (r.ret m hm).trans k1.ret
    · show Host.Outcome.next (State.cvgBuild _ ((i.setWidth 10).toNat : Int) flip) = _
      rw [scanline_of_valid hvalid]
      rfl
    · rw [← htex]
      exact exec_textureCycle r.texture
    · have h := exec_rgbazCorrect r.correct
      rw [hcor] at h
      exact h
    · have h := exec_ditherNoise r.dither
      rwa [BitVec.ofInt_toInt] at h
    · rw [← hom]
      exact renderCycle_one two i tilenum flip hvalid hx r

end Sys2Proof.Machine

end

/-! ## The edge walker family: `EDGEWALK` and the draw around it (`40_edge_walker.md`)

`LineStep` says what one iteration of the walk may change; from it come the frame of `EDGEWALK` and the draw. The span buffer
is an invariant per scanline, `WalkLine`: its four iterations fill the entry (`LinePart`, `LineDone`) and no other touches it.
The positions are those of `Laws/Walk.lean`; their integer forms are stated last. -/

section

namespace Sys2Proof.Machine

variable {s t u : State} {c : TriCmd}

/-! ### What the walk leaves (R180) -/

/-- Only the span buffer, the three aggregates of a scanline and the sequencer's `k` differ. -/
def LineFrame (s t : State) : Prop := t = { s with
  gs.span := t.gs.span, gs.seq.k := t.gs.seq.k
  gs.flags := { s.gs.flags with
    allover := t.gs.flags.allover, allunder := t.gs.flags.allunder, allinval := t.gs.flags.allinval } }

theorem LineFrame.trans (h : LineFrame s t) (k : LineFrame t u) : LineFrame s u := by
  unfold LineFrame at h k ⊢
  rw [k, h]

/-- What an iteration on scanline `j` may do: it writes no other entry of the span buffer. -/
structure LineStep (j : Int) (s t : State) : Prop where
  frame : LineFrame s t
  others : ∀ i, i ≠ j → t.spanAt i = s.spanAt i

theorem LineStep.refl (j : Int) (s : State) : LineStep j s s := ⟨rfl, fun _ _ => rfl⟩

theorem LineStep.trans {j : Int} (h : LineStep j s t) (k : LineStep j t u) : LineStep j s u :=
  ⟨h.frame.trans k.frame, fun i hi => (k.others i hi).trans (h.others i hi)⟩

theorem LineStep.putSpan (j : Int) (x : Span) : LineStep j s (s.putSpan j x) where
  frame := by
    unfold State.putSpan
    split <;> rfl
  others := fun i hi => by rw [State.putSpan_spanAt, if_neg (fun h => hi h.1)]

theorem LineStep.setAggregates (j : Int) (o n i : Bool) :
    LineStep j s (s.setFlags { s.gs.flags with allover := o, allunder := n, allinval := i }) :=
  ⟨rfl, fun _ _ => rfl⟩

/-- Whether sub-scanline `k` is invalid with its edges at these positions (R180, R184). -/
def invalidBetween (p : WalkSetup) (k : Int) (xleft xright : Word) : Bool :=
  decide (k < p.yhlimit) || decide (p.yllimit ≤ k) ||
    if p.flip then decide (edgeKey xleft < edgeKey xright) else decide (edgeKey xright < edgeKey xleft)

/-- Whether the sub-scanline that the walk stands at is invalid. -/
def Walk.invalid (p : WalkSetup) (k : Int) (w : Walk) : Bool := invalidBetween p k w.xleft w.xright

/-- The entry of a scanline with the crossings of sub-scanline `x` (R180). -/
def Walk.crossed (p : WalkSetup) (k : Int) (x : Fin 4) (w : Walk) (e : Span) : Span :=
  { e with
    majorx := e.majorx.set x ((cross p.clipxh p.clipxl w.xright).xsc.setWidth 13)
    minorx := e.minorx.set x ((cross p.clipxh p.clipxl w.xleft).xsc.setWidth 13)
    invalyscan := e.invalyscan.set x (w.invalid p k) }

/-- The aggregates of a scanline after one more sub-scanline (R180). -/
def Walk.aggregated (p : WalkSetup) (k : Int) (w : Walk) (f : DrawFlags) : DrawFlags :=
  let right := cross p.clipxh p.clipxl w.xright
  let left := cross p.clipxh p.clipxl w.xleft
  { f with
    allover := f.allover && right.isOver && left.isOver
    allunder := f.allunder && right.isUnder && left.isUnder
    allinval := f.allinval && w.invalid p k }

theorem Walk.startLine_st (p : WalkSetup) (w : Walk) : (w.startLine p).st =
    w.st.setFlags { w.st.gs.flags with allover := true, allunder := true, allinval := true } :=
  (apply_ite Walk.st _ _ _).trans (ite_self _)

theorem Walk.subScanline_st (p : WalkSetup) (k j : Int) (x : Fin 4) (w : Walk) : (w.subScanline p k j x).st =
    (w.st.putSpan j (w.crossed p k x (w.st.spanAt j))).setFlags (w.aggregated p k w.st.gs.flags) := by
  unfold Walk.subScanline
  simp only [apply_ite Walk.st, ite_self]
  rfl

theorem State.putSpan_flags (j : Int) (x : Span) : (s.putSpan j x).gs.flags = s.gs.flags := by
  unfold State.putSpan
  split <;> rfl

theorem LineStep.startLine (p : WalkSetup) (j : Int) (w : Walk) : LineStep j w.st (w.startLine p).st := by
  rw [Walk.startLine_st]
  exact .setAggregates j true true true

theorem LineStep.subScanline (p : WalkSetup) (k j : Int) (x : Fin 4) (w : Walk) :
    LineStep j w.st (w.subScanline p k j x).st := by
  rw [Walk.subScanline_st, ← State.putSpan_flags j (w.crossed p k x (w.st.spanAt j))]
  exact (LineStep.putSpan j _).trans (.setAggregates j _ _ _)

/-- `spix == 0` starts the aggregates of a scanline (R180). -/
def Walk.begin (p : WalkSetup) (x : Fin 4) (w : Walk) : Walk := if x = 0 then w.startLine p else w

/-- The stored part of an iteration, but `FINALISE` (R180). -/
def Walk.collect (p : WalkSetup) (k : Int) (x : Fin 4) (w : Walk) : Walk :=
  let v := (w.begin p x).subScanline p k (k / 4) x
  if x.val = p.ldflag then v.loadAttrs p (k / 4) else v

theorem Walk.store_eq (p : WalkSetup) (k : Int) (x : Fin 4) (w : Walk) :
    w.store p k x = if x = 3 then (w.collect p k x).finalise p (k / 4) else w.collect p k x := rfl

theorem LineStep.collect (p : WalkSetup) (k : Int) (x : Fin 4) (w : Walk) : LineStep (k / 4) w.st (w.collect p k x).st := by
  have hbegin : LineStep (k / 4) w.st (w.begin p x).st := by
    unfold Walk.begin
    split
    · exact .startLine p _ w
    · exact .refl _ _
  have hsub := hbegin.trans (.subScanline p k (k / 4) x _)
  unfold Walk.collect
  simp only
  split
  · exact hsub.trans (.putSpan _ _)
  · exact hsub

theorem LineStep.store (p : WalkSetup) (k : Int) (x : Fin 4) (w : Walk) : LineStep (k / 4) w.st (w.store p k x).st := by
  rw [Walk.store_eq]
  split
  · exact (LineStep.collect p k x w).trans (.putSpan _ _)
  · exact .collect p k x w

/-- The walk as iteration `k` stores it: `gs.seq.k` and the switch to the L edge at `ym` (R180). -/
def Walk.enter (p : WalkSetup) (k : Int) (w : Walk) : Walk :=
  let w := { w with st := w.st.setSeq { w.st.gs.seq with k := BitVec.ofInt 14 k } }
  if k = p.ym then { w with xleft := p.xl, incLeft := p.incL } else w

/-- The end of an iteration (R180, R192). -/
def Walk.advance (p : WalkSetup) (k : Int) (w : Walk) : Walk :=
  { w with
    attrs := if spixOf k = 3 then w.attrs.add p.dAde else w.attrs
    xleft := w.xleft + w.incLeft, xright := w.xright + p.incRight }

theorem walkStep_eq (p : WalkSetup) (k : Int) (w : Walk) : walkStep p k w =
    (if p.yhclose ≤ k then (w.enter p k).store p k (spixOf k) else w.enter p k).advance p k := rfl

theorem LineStep.enter (p : WalkSetup) (j k : Int) (w : Walk) : LineStep j w.st (w.enter p k).st := by
  unfold Walk.enter
  simp only
  split <;> exact ⟨rfl, fun _ _ => rfl⟩

theorem LineStep.walkStep (p : WalkSetup) (k : Int) (w : Walk) : LineStep (k / 4) w.st (walkStep p k w).st := by
  rw [walkStep_eq]
  split
  · exact (LineStep.enter p _ k w).trans (.store p k _ _)
  · exact .enter p _ k w

theorem walkSetup_intake (c : TriCmd) (s : State) : walkSetup c (s.intake c) = walkSetup c s := rfl

theorem LineFrame.walkStart (c : TriCmd) (p : WalkSetup) (s : State) : LineFrame s (walkStart c p s).st := by
  unfold Machine.walkStart
  simp only
  split
  · exact (LineStep.putSpan _ _).frame
  · rfl

/-- The whole walk leaves everything but the span buffer, the aggregates and `k` as the intake left it. -/
theorem State.edgewalk_lineFrame (s : State) (c : TriCmd) : LineFrame (s.intake c) (s.edgewalk c) :=
  forUp_inv (fun _ (w : Walk) => LineFrame (s.intake c) w.st) _ _ _
    (fun k w _ _ hw => hw.trans (LineStep.walkStep _ k w).frame) (.walkStart c _ _)

theorem State.edgewalk_flip (s : State) (c : TriCmd) : (s.edgewalk c).gs.flags.flip = c.flip :=
  (congrArg (fun m : State => m.gs.flags.flip) (s.edgewalk_lineFrame c) :)

theorem State.edgewalk_maxLevel (s : State) (c : TriCmd) : (s.edgewalk c).gs.misc.maxLevel = c.level :=
  (congrArg (fun m : State => m.gs.misc.maxLevel) (s.edgewalk_lineFrame c) :)

theorem State.edgewalk_ret (s : State) (c : TriCmd) : (s.edgewalk c).ret = s.ret :=
  (congrArg (fun m : State => m.ret) (s.edgewalk_lineFrame c) :)

theorem State.edgewalk_slopes (s : State) (c : TriCmd) : (s.edgewalk c).gs.slopes = slopesOf c :=
  (congrArg (fun m : State => m.gs.slopes) (s.edgewalk_lineFrame c) :)

theorem State.edgewalk_tmem (s : State) (c : TriCmd) : (s.edgewalk c).tmem = s.tmem :=
  (congrArg (fun m : State => m.tmem) (s.edgewalk_lineFrame c) :)

theorem State.edgewalk_clip (s : State) (c : TriCmd) : (s.edgewalk c).gs.clip = s.gs.clip :=
  (congrArg (fun m : State => m.gs.clip) (s.edgewalk_lineFrame c) :)

/-! ### The draw (R172) -/

theorem exec_edgewalk (c : TriCmd) (s : State) :
    exec (.edgewalk c) s = .next ((s.edgewalk c).setRet (.limits (renderLimits c s).1 (renderLimits c s).2)) := rfl

/-- The record's fields that a draw leaves in the registers (R174), and what it does not touch. -/
theorem drawTri_registers (h : s.drawTri c = .ok t) :
    t.gs.misc.maxLevel = c.level ∧ t.gs.flags.flip = c.flip ∧ t.tmem = s.tmem ∧ t.ret = s.ret := by
  obtain ⟨w, r, -, rfl, rfl, hend⟩ := drawTri_cases h
  have hlevel := s.drawBegin.edgewalk_maxLevel c
  have hflip := s.drawBegin.edgewalk_flip c
  have htmem : (s.drawBegin.edgewalk c).tmem = s.tmem := by rw [State.edgewalk_tmem, State.drawBegin_eq]
  have hret : (s.drawBegin.edgewalk c).ret = s.ret := by rw [State.edgewalk_ret, State.drawBegin_eq]
  rcases hend with ⟨-, rfl⟩ | ⟨-, W, hr⟩
  · exact ⟨hlevel, hflip, htmem, hret⟩
  · exact ⟨(congrArg MiscRegs.maxLevel hr.misc).trans hlevel, hr.flip.trans hflip, hr.tmem.trans htmem, hr.ret.trans hret⟩

/-- Settles O20: a draw completes in a drawable state, and `DrawStep` and the walk's frame say what it leaves. -/
theorem drawTriCompletes : Obligations.DrawTriCompletes := by
  unfold Obligations.DrawTriCompletes
  intro s c hs
  obtain ⟨t, ht⟩ := hs.drawTri c
  have hstep := drawTri_step ht
  obtain ⟨hlevel, hflip, htmem, hret⟩ := drawTri_registers ht
  exact ⟨t, congrArg ofExcept ht, hstep.phase, hstep.stale, hstep.der, hlevel, hflip, hstep.control,
    fun a => congrArg (storeGet unlistedByte · a) htmem, hstep.port, hret⟩

/-- The walk of a draw, run as the stage operations that R172 names. -/
theorem drawBegin_walk {w : State} (h : if s.gs.stale then
      ∃ d, exec .deduceDerivatives { s with gs.seq.phase := .edgewalk } = .next d ∧ exec (.edgewalk c) d = .next w
    else exec (.edgewalk c) { s with gs.seq.phase := .edgewalk } = .next w) :
    exec (.edgewalk c) s.drawBegin = .next w := by
  unfold State.drawBegin
  cases hstale : s.gs.stale with
  | true =>
    rw [hstale, if_pos rfl] at h
    obtain ⟨d, hd, hw⟩ := h
    cases hd
    simp only [State.setPhase_stale, hstale, if_true]
    exact hw
  | false =>
    rw [hstale, if_neg Bool.false_ne_true] at h
    simp only [State.setPhase_stale, hstale, Bool.false_eq_true, if_false]
    exact h

/-- Settles O21: the latch of the walk holds the limits that the draw passes to the renderer. -/
theorem drawTriIsWalkThenRender : Obligations.DrawTriIsWalkThenRender := by
  unfold Obligations.DrawTriIsWalkThenRender
  intro s w r c start stop hwalk hlimits hrender
  have hw := drawBegin_walk hwalk
  rw [exec_edgewalk] at hw
  cases hw
  cases hlimits
  have hret : s.ret = (s.drawBegin.edgewalk c).ret := by rw [State.edgewalk_ret, State.drawBegin_eq]
  rw [hret] at hrender
  have hlimits : renderLimits c ((s.drawBegin.edgewalk c).setPhase .render) = renderLimits c s.drawBegin := by
    unfold renderLimits
    rw [State.setPhase_clip, State.edgewalk_clip]
  have hr : ((s.drawBegin.edgewalk c).setPhase .render).renderSpans (renderLimits c s.drawBegin).1
      (renderLimits c s.drawBegin).2 c.tile c.flip = .ok r := ofExcept_next hrender
  rw [← hlimits] at hr
  have hdraw : s.drawTri c = .ok (r.setPhase .idle) := andThen_ok.2 ⟨r, hr, rfl⟩
  exact congrArg ofExcept hdraw

/-! ### Bit operations of the walk as integers (R176, R180) -/

/-- Clearing the low `k` bits rounds down to a multiple of `2 ^ k`. -/
theorem clearLow_toInt (v : Word) (k : Nat) (hk : k < 31) :
    (v &&& (BitVec.allOnes 32 <<< k)).toInt = v.toInt / 2 ^ k * 2 ^ k := by
  have hshift : v &&& (BitVec.allOnes 32 <<< k) = v.sshiftRight k <<< k := by
    ext i hi
    rw [BitVec.getElem_and, BitVec.getElem_shiftLeft, BitVec.getElem_shiftLeft]
    by_cases h : i < k
    · simp [h]
    · simp only [h, decide_false, Bool.not_false, Bool.true_and, BitVec.getElem_allOnes, Bool.and_true,
        BitVec.getElem_sshiftRight]
      rw [dif_pos (by omega)]
      simp only [show k + (i - k) = i by omega]
  have hpow : (BitVec.twoPow 32 k).toInt = 2 ^ k := by
    rw [BitVec.toInt_twoPow, if_neg (by omega), if_neg (by omega)]
  have hdvd : (2 : Int) ^ k ∣ -2 ^ 31 := (pow_dvd_pow 2 hk.le).neg_right
  have hpos : (0 : Int) < 2 ^ k := by positivity
  have hle := Int.ediv_mul_le v.toInt hpos.ne'
  have hge : (-2 ^ 31) / 2 ^ k * 2 ^ k ≤ v.toInt / 2 ^ k * 2 ^ k :=
    Int.mul_le_mul_of_nonneg_right (Int.ediv_le_ediv hpos v.le_toInt) hpos.le
  rw [Int.ediv_mul_cancel hdvd] at hge
  have hlt := v.toInt_lt
  rw [hshift, BitVec.shiftLeft_eq_mul_twoPow, BitVec.toInt_mul, BitVec.toInt_sshiftRight, hpow, Int.shiftRight_eq_div_pow]
  push_cast
  exact Int.bmod_eq_of_le (by omega) (by omega)

theorem setWidth_toInt (n : Nat) (v : Word) (hn : n ≤ 32) : (v.setWidth n).toInt = v.toInt.bmod (2 ^ n) := by
  rw [← BitVec.signExtend_eq_setWidth_of_le v hn, BitVec.toInt_signExtend_eq_toInt_bmod_of_le v hn]

theorem sshiftRight_toInt (v : Word) (k : Nat) : (v.sshiftRight k).toInt = v.toInt / 2 ^ k := by
  rw [BitVec.toInt_sshiftRight, Int.shiftRight_eq_div_pow]
  push_cast
  rfl

/-! ### The slope registers (R176) -/

theorem slope13_toInt (v : Word) : (slope13 v).toInt = (v.toInt / 0x4000).bmod 0x2000 := by
  unfold slope13
  rw [setWidth_toInt 13 _ (by decide), sshiftRight_toInt]
  rfl

theorem slope22_toInt (v : Word) : (slope22 v).toInt = (v.toInt / 0x400).bmod 0x400000 := by
  unfold slope22
  rw [setWidth_toInt 22 _ (by decide), sshiftRight_toInt]
  rfl

theorem slopeX_toInt (v : Word) : (v &&& 0xFFFFFFE0).toInt = v.toInt / 32 * 32 := clearLow_toInt v 5 (by decide)

theorem slopeY_toInt (v : Word) : (v &&& 0xFFFF8000).toInt = v.toInt / 0x8000 * 0x8000 := clearLow_toInt v 15 (by decide)

/-! ### The depth slope (R178) -/

/-- The magnitude of the integer part of a depth slope. -/
def depthMagnitude (v : Word) : Int :=
  if v.toInt / 0x10000 < 0 then -(v.toInt / 0x10000) - 1 else v.toInt / 0x10000

theorem slopeMagnitude_toNat (v : Word) : ((slopeMagnitude (v.extractLsb' 16 16)).toNat : Int) = depthMagnitude v := by
  have hx : (v.extractLsb' 16 16).toNat = v.toNat / 65536 := by
    rw [BitVec.extractLsb'_toNat, Nat.shiftRight_eq_div_pow]
    omega
  have hv : v.toInt = if 2 * v.toNat < 2 ^ 32 then (v.toNat : Int) else v.toNat - 2 ^ 32 := BitVec.toInt_eq_toNat_cond v
  have hsign : (v.extractLsb' 16 16).getLsbD 15 = decide (2 ^ 31 ≤ v.toNat) := by
    rw [BitVec.getLsbD_extractLsb']
    exact BitVec.msb_eq_decide v
  have hmask : (~~~(v.extractLsb' 16 16) &&& 0x7FFF).toNat = (0xFFFF - v.toNat / 65536) % 0x8000 := by
    rw [BitVec.toNat_and, BitVec.toNat_not, hx]
    exact Nat.and_two_pow_sub_one_eq_mod _ 15
  unfold slopeMagnitude depthMagnitude
  rw [hsign]
  by_cases h : 2 ^ 31 ≤ v.toNat
  · rw [if_neg (by omega)] at hv
    rw [if_pos (decide_eq_true h), hmask, if_pos (by omega)]
    omega
  · rw [if_pos (by omega)] at hv
    rw [if_neg (by simpa using h), hx, if_neg (by omega)]
    omega

theorem depthMagnitude_bounds (v : Word) : 0 ≤ depthMagnitude v ∧ depthMagnitude v < 0x8000 := by
  have h1 := v.le_toInt
  have h2 := v.toInt_lt
  unfold depthMagnitude
  split <;> omega

/-- The highest set bit of a number that has one. -/
theorem topBit_eq_two_pow {n v : Nat} (hv : 0 < v) (hlt : v < 2 ^ n) :
    ∃ k < n, topBit n v = 2 ^ k ∧ 2 ^ k ≤ v ∧ v < 2 ^ (k + 1) := by
  induction n with
  | zero => omega
  | succ n ih =>
    unfold topBit
    by_cases h : 2 ^ n ≤ v
    · rw [if_pos (Nat.testBit_of_two_pow_le_and_two_pow_add_one_gt h hlt)]
      exact ⟨n, n.lt_succ_self, rfl, h, hlt⟩
    · rw [if_neg (by rw [Nat.testBit_lt_two_pow (by omega)]; decide)]
      obtain ⟨k, hk, htop⟩ := ih (by omega)
      exact ⟨k, by omega, htop⟩

theorem highBits_ne_zero (v : BitVec 16) : v &&& 0xC000 ≠ 0 ↔ 0x4000 ≤ v.toNat := by
  have hmask : v &&& (0xC000 : BitVec 16) = v >>> 14 <<< 14 := by
    rw [BitVec.shiftLeft_ushiftRight]
    rfl
  have hv : (v &&& 0xC000).toNat = v.toNat / 0x4000 * 0x4000 := by
    rw [hmask, BitVec.toNat_shiftLeft, BitVec.toNat_ushiftRight, Nat.shiftRight_eq_div_pow, Nat.shiftLeft_eq]
    omega
  have hzero : v &&& 0xC000 = 0 ↔ (v &&& 0xC000).toNat = 0 := BitVec.toNat_inj.symm
  rw [Ne, hzero, hv]
  omega

/-- `normalize_dzpix`, by the range of its argument (R178). -/
theorem normalizeDzpix_cases (v : BitVec 16) :
    (v.toNat = 0 ∧ normalizeDzpix v = 1) ∨ (v.toNat = 1 ∧ normalizeDzpix v = 3) ∨
    (0x4000 ≤ v.toNat ∧ normalizeDzpix v = 0x8000) ∨
    ∃ k < 14, 1 ≤ k ∧ 2 ^ k ≤ v.toNat ∧ v.toNat < 2 ^ (k + 1) ∧ (normalizeDzpix v).toNat = 2 ^ (k + 1) := by
  unfold normalizeDzpix
  by_cases hhigh : 0x4000 ≤ v.toNat
  · rw [if_pos ((highBits_ne_zero v).2 hhigh)]
    exact .inr (.inr (.inl ⟨hhigh, rfl⟩))
  rw [if_neg (mt (highBits_ne_zero v).1 hhigh)]
  by_cases h0 : v = 0
  · rw [if_pos h0]
    exact .inl ⟨congrArg BitVec.toNat h0, rfl⟩
  rw [if_neg h0]
  by_cases h1 : v = 1
  · rw [if_pos h1]
    exact .inr (.inl ⟨congrArg BitVec.toNat h1, rfl⟩)
  rw [if_neg h1]
  have hne0 : v.toNat ≠ 0 := fun h => h0 (BitVec.eq_of_toNat_eq h)
  have hne1 : v.toNat ≠ 1 := fun h => h1 (BitVec.eq_of_toNat_eq h)
  obtain ⟨k, hk, htop, hle, hlt⟩ := topBit_eq_two_pow (n := 14) (by omega : 0 < v.toNat) (by omega)
  have hk1 : 1 ≤ k := by
    by_contra h
    obtain rfl : k = 0 := by omega
    omega
  refine .inr (.inr (.inr ⟨k, hk, hk1, hle, hlt, ?_⟩))
  rw [htop, BitVec.toNat_ofNat, ← Nat.pow_succ', Nat.mod_eq_of_lt (Nat.pow_lt_pow_right (by decide) (by omega))]

theorem spansDzpix_eq (dzdx dzdy : Word) : ∃ v : BitVec 16,
    (v.toNat : Int) = depthMagnitude dzdx + depthMagnitude dzdy ∧ spansDzpix dzdx dzdy = normalizeDzpix v := by
  refine ⟨_, ?_, rfl⟩
  have hx := slopeMagnitude_toNat dzdx
  have hy := slopeMagnitude_toNat dzdy
  have bx := depthMagnitude_bounds dzdx
  have bY := depthMagnitude_bounds dzdy
  rw [BitVec.toNat_add, Nat.mod_eq_of_lt (by omega)]
  omega

/-! ### The obligation on slopes and frame -/

/-- The slope registers of a colour (R176). -/
def IsColorSlope (k : Coeff) (d : Word) (cd dy : BitVec 13) : Prop :=
  d.toInt = k.dx.toInt / 32 * 32 ∧ cd.toInt = (d.toInt / 0x4000).bmod 0x2000 ∧ dy.toInt = (k.dy.toInt / 0x4000).bmod 0x2000

theorem isColorSlope (k : Coeff) :
    IsColorSlope k (k.dx &&& 0xFFFFFFE0) (slope13 (k.dx &&& 0xFFFFFFE0)) (slope13 k.dy) :=
  ⟨slopeX_toInt _, slope13_toInt _, slope13_toInt _⟩

/-- `gs.spans_dzpix` in each range of the sum of magnitudes (R178). -/
theorem spansDzpix_cases {dzdx dzdy : Word} {sum : Int} (hsum : sum = depthMagnitude dzdx + depthMagnitude dzdy) :
    let d := (spansDzpix dzdx dzdy).toNat
    (sum = 0 → d = 1) ∧ (sum = 1 → d = 3) ∧ (0x4000 ≤ sum → d = 0x8000) ∧
    (2 ≤ sum → sum < 0x4000 → ∃ k, d = 2 ^ k ∧ (d : Int) / 2 ≤ sum ∧ sum < d) ∧
    (d = 1 ∨ d = 3 ∨ ∃ k, 2 ≤ k ∧ k ≤ 15 ∧ d = 2 ^ k) := by
  obtain ⟨v, hv, hd⟩ := spansDzpix_eq dzdx dzdy
  rw [← hsum] at hv
  simp only [hd]
  rcases normalizeDzpix_cases v with ⟨h, e⟩ | ⟨h, e⟩ | ⟨h, e⟩ | ⟨k, hk, hk1, hle, hlt, e⟩
  · rw [e]
    exact ⟨fun _ => rfl, by omega, by omega, by omega, .inl rfl⟩
  · rw [e]
    exact ⟨by omega, fun _ => rfl, by omega, by omega, .inr (.inl rfl)⟩
  · rw [e]
    exact ⟨by omega, by omega, fun _ => rfl, by omega, .inr (.inr ⟨15, by decide⟩)⟩
  · rw [e]
    have hpow : 2 ^ (k + 1) = 2 * 2 ^ k := Nat.pow_succ'
    have h2 : 2 ^ 1 ≤ 2 ^ k := Nat.pow_le_pow_right (by decide) hk1
    have h14 : 2 ^ (k + 1) ≤ 2 ^ 14 := Nat.pow_le_pow_right (by decide) hk
    exact ⟨by omega, by omega, by omega, fun _ _ => ⟨k + 1, rfl, by omega, by omega⟩,
      .inr (.inr ⟨k + 1, by omega, by omega, rfl⟩)⟩

/-- Settles O23: the intake writes the slope registers and `gs.max_level`, and the walk adds only what `LineFrame` lists. -/
theorem edgewalkSlopesAndFrame : Obligations.EdgewalkSlopesAndFrame := by
  unfold Obligations.EdgewalkSlopesAndFrame
  refine ⟨fun s c => ⟨_, exec_edgewalk c s, ?_, ?_, ?_⟩, fun s t c h => ?_⟩
  · have hframe := s.edgewalk_lineFrame c
    unfold LineFrame at hframe
    rw [hframe]
    rfl
  · exact (congrArg (fun m : State => m.gs.flags) (s.edgewalk_lineFrame c) :)
  · rw [State.setRet_slopes, State.edgewalk_slopes]
    exact ⟨isColorSlope _, isColorSlope _, isColorSlope _, isColorSlope _, ⟨slopeX_toInt _, slopeY_toInt _⟩,
      ⟨slopeX_toInt _, slopeY_toInt _⟩, ⟨slopeX_toInt _, slopeY_toInt _⟩, rfl, slope22_toInt _, slope22_toInt _⟩
  · cases h
    rw [State.setRet_slopes, State.edgewalk_slopes]
    refine spansDzpix_cases ?_
    show (if c.zbuf then depthMagnitude c.z.dx + depthMagnitude c.z.dy else 0) =
      depthMagnitude (c.z.masked c.zbuf).dx + depthMagnitude (c.z.masked c.zbuf).dy
    unfold Coeff.masked
    cases c.zbuf with
    | true => rfl
    | false =>
      show (0 : Int) = depthMagnitude 0 + depthMagnitude 0
      decide

/-! ### The bounds of a scanline (R188) -/

/-- Where the largest (`up`) or the smallest of 12-bit values starts. -/
def extremeStart (up : Bool) : BitVec 12 := if up then 0 else 0xFFF

/-- The larger (`up`) or the smaller of two. -/
def extremeOf (up : Bool) (v x : BitVec 12) : BitVec 12 :=
  if up then (if v < x then x else v) else (if x < v then x else v)

/-- `v` is the largest (`up`) or the smallest of the `x n` with `P n`, or the start when there is none. -/
structure IsExtreme (up : Bool) (P : Fin 4 → Prop) (x : Fin 4 → BitVec 12) (v : BitVec 12) : Prop where
  bound : ∀ n, P n → if up then x n ≤ v else v ≤ x n
  attained : v = extremeStart up ∨ ∃ n, P n ∧ x n = v

section

variable {up : Bool} {P : Fin 4 → Prop} {x : Fin 4 → BitVec 12} {v : BitVec 12}

theorem IsExtreme.start (hP : ∀ n, ¬ P n) : IsExtreme up P x (extremeStart up) :=
  ⟨fun n hn => absurd hn (hP n), .inl rfl⟩

theorem IsExtreme.congr {Q : Fin 4 → Prop} (h : IsExtreme up P x v) (hPQ : ∀ n, Q n ↔ P n) : IsExtreme up Q x v := by
  obtain rfl : Q = P := funext fun n => propext (hPQ n)
  exact h

theorem extremeOf_cases (up : Bool) (v x : BitVec 12) : (extremeOf up v x = v ∨ extremeOf up v x = x) ∧
    if up then v ≤ extremeOf up v x ∧ x ≤ extremeOf up v x else extremeOf up v x ≤ v ∧ extremeOf up v x ≤ x := by
  unfold extremeOf
  cases up
  · simp only [Bool.false_eq_true, if_false]
    split
    · exact ⟨.inr rfl, by bv_omega⟩
    · exact ⟨.inl rfl, by bv_omega⟩
  · simp only [if_true]
    split
    · exact ⟨.inr rfl, by bv_omega⟩
    · exact ⟨.inl rfl, by bv_omega⟩

theorem IsExtreme.insert (h : IsExtreme up P x v) (n : Fin 4) :
    IsExtreme up (fun m => P m ∨ m = n) x (extremeOf up v (x n)) := by
  obtain ⟨hchoice, hle⟩ := extremeOf_cases up v (x n)
  constructor
  · rintro m (hm | rfl)
    · have hb := h.bound m hm
      cases up
      · exact BitVec.le_trans hle.1 hb
      · exact BitVec.le_trans hb hle.1
    · cases up
      · exact hle.2
      · exact hle.2
  · rcases hchoice with e | e
    · rw [e]
      exact h.attained.imp_right fun ⟨m, hm, hx⟩ => ⟨m, .inl hm, hx⟩
    · rw [e]
      exact .inr ⟨n, .inr rfl, rfl⟩

end

/-! ### One scanline (R180 to R190) -/

/-- The bound that ends as `lx`: of the minor edge's crossings. -/
def Walk.minorBound (p : WalkSetup) (w : Walk) : BitVec 12 := if p.flip then w.maxxmx else w.minxmx

/-- The bound that ends as `rx`: of the major edge's crossings. -/
def Walk.majorBound (p : WalkSetup) (w : Walk) : BitVec 12 := if p.flip then w.minxhx else w.maxxhx

theorem Walk.startLine_bounds (p : WalkSetup) (w : Walk) : (w.startLine p).minorBound p = extremeStart p.flip ∧
    (w.startLine p).majorBound p = extremeStart (!p.flip) := by
  unfold Walk.startLine Walk.minorBound Walk.majorBound
  cases p.flip <;> exact ⟨rfl, rfl⟩

theorem Walk.subScanline_bounds (p : WalkSetup) (k j : Int) (x : Fin 4) (w : Walk) :
    (w.subScanline p k j x).minorBound p = (if w.invalid p k then w.minorBound p
      else extremeOf p.flip (w.minorBound p) (cross p.clipxh p.clipxl w.xleft).pixel) ∧
    (w.subScanline p k j x).majorBound p = (if w.invalid p k then w.majorBound p
      else extremeOf (!p.flip) (w.majorBound p) (cross p.clipxh p.clipxl w.xright).pixel) := by
  have hinvalid : (decide (k < p.yhlimit) || decide (p.yllimit ≤ k) || if p.flip then
      decide (edgeKey w.xleft < edgeKey w.xright) else decide (edgeKey w.xright < edgeKey w.xleft)) = w.invalid p k := rfl
  unfold Walk.subScanline
  simp only [hinvalid]
  unfold Walk.minorBound Walk.majorBound
  cases w.invalid p k <;> cases p.flip <;> exact ⟨rfl, rfl⟩

theorem Walk.subScanline_spanAt {p : WalkSetup} {k j : Int} {x : Fin 4} {w : Walk}
    (hj : 0 ≤ j ∧ j < Config.maxScanlines) :
    (w.subScanline p k j x).st.spanAt j = w.crossed p k x (w.st.spanAt j) := by
  rw [Walk.subScanline_st]
  exact (State.putSpan_spanAt w.st j j _).trans (if_pos ⟨rfl, hj⟩)

/-- The crossing of the major edge on sub-scanline `k`. -/
def majorAt (c : TriCmd) (p : WalkSetup) (k : Int) : Crossing := cross p.clipxh p.clipxl (rightAt c k)

/-- The crossing of the minor edge on sub-scanline `k`. -/
def minorAt (c : TriCmd) (p : WalkSetup) (k : Int) : Crossing := cross p.clipxh p.clipxl (leftAt c k)

/-- Whether sub-scanline `k` is invalid, from the closed form of the edges. -/
def invalidAt (c : TriCmd) (p : WalkSetup) (k : Int) : Bool := invalidBetween p k (leftAt c k) (rightAt c k)

/-- The walk stands at sub-scanline `k`, after the switch at `ym`. -/
structure Entered (c : TriCmd) (k : Int) (w : Walk) : Prop where
  xright : w.xright = rightAt c k
  xleft : w.xleft = leftAt c k
  attrs : w.attrs = attrsAt c (k / 4)

theorem WalkAt.enter {k : Int} {w : Walk} (h : WalkAt c k w) (hk : quarterFloor c.yh.toInt ≤ k) (s : State) :
    Entered c k (w.enter (walkSetup c s) k) := by
  unfold Walk.enter
  simp only
  split
  · next hm =>
    have hm' : k = c.ym.toInt := hm
    refine ⟨h.xright, ?_, h.attrs⟩
    unfold leftAt
    rw [if_pos (by omega), ← hm', Int.sub_self]
    simp [walkSetup]
  · next hm => exact ⟨h.xright, h.xleft hm, h.attrs⟩

theorem Entered.begin {k : Int} {w : Walk} (h : Entered c k w) (p : WalkSetup) (x : Fin 4) : Entered c k (w.begin p x) := by
  have e : SameEdges w (w.begin p x) := by
    unfold Walk.begin
    split
    · exact .startLine p w
    · exact .refl w
  exact ⟨e.xright.trans h.xright, e.xleft.trans h.xleft, e.attrs.trans h.attrs⟩

/-- Scanline `j` after its first `n` sub-scanlines: what its entry, the aggregates and the bounds hold. -/
structure Collected (c : TriCmd) (p : WalkSetup) (j : Int) (n : Nat) (w : Walk) : Prop where
  majorx : ∀ m : Fin 4, m.val < n → (w.st.spanAt j).majorx[m] = (majorAt c p (4 * j + m.val)).xsc.setWidth 13
  minorx : ∀ m : Fin 4, m.val < n → (w.st.spanAt j).minorx[m] = (minorAt c p (4 * j + m.val)).xsc.setWidth 13
  invalyscan : ∀ m : Fin 4, m.val < n → (w.st.spanAt j).invalyscan[m] = invalidAt c p (4 * j + m.val)
  allover : w.st.gs.flags.allover = true ↔ ∀ m : Fin 4, m.val < n →
    (majorAt c p (4 * j + m.val)).isOver = true ∧ (minorAt c p (4 * j + m.val)).isOver = true
  allunder : w.st.gs.flags.allunder = true ↔ ∀ m : Fin 4, m.val < n →
    (majorAt c p (4 * j + m.val)).isUnder = true ∧ (minorAt c p (4 * j + m.val)).isUnder = true
  allinval : w.st.gs.flags.allinval = true ↔ ∀ m : Fin 4, m.val < n → invalidAt c p (4 * j + m.val) = true
  minor : IsExtreme p.flip (fun m => m.val < n ∧ invalidAt c p (4 * j + m.val) = false)
    (fun m => (minorAt c p (4 * j + m.val)).pixel) (w.minorBound p)
  major : IsExtreme (!p.flip) (fun m => m.val < n ∧ invalidAt c p (4 * j + m.val) = false)
    (fun m => (majorAt c p (4 * j + m.val)).pixel) (w.majorBound p)

/-- What `ADJUST_ATTR` and the load of `unscrx` leave in the entry of scanline `j` (R186). -/
structure Loaded (c : TriCmd) (p : WalkSetup) (j : Int) (e : Span) : Prop where
  unscrx : e.unscrx = (rightAt c (4 * j + p.ldflag)).extractLsb' 16 12
  attrs : e.attrs = adjustAttrs p (rightAt c (4 * j + p.ldflag)) (attrsAt c j)

/-- Scanline `j` within the walk, after its first `n` sub-scanlines. -/
structure LinePart (c : TriCmd) (p : WalkSetup) (j : Int) (n : Nat) (w : Walk) : Prop where
  collected : Collected c p j n w
  loaded : p.ldflag < n → Loaded c p j (w.st.spanAt j)

theorem forall_fin_lt_succ {Q : Fin 4 → Prop} (x : Fin 4) :
    (∀ m : Fin 4, m.val < x.val + 1 → Q m) ↔ (∀ m : Fin 4, m.val < x.val → Q m) ∧ Q x := by
  refine ⟨fun h => ⟨fun m hm => h m (by omega), h x (by omega)⟩, fun ⟨h, hx⟩ m hm => ?_⟩
  by_cases hmx : m.val < x.val
  · exact h m hmx
  · obtain rfl : m = x := Fin.ext (by omega)
    exact hx

theorem lt_succ_and_iff {Q : Fin 4 → Prop} {x : Fin 4} (hx : Q x) (m : Fin 4) :
    (m.val < x.val + 1 ∧ Q m) ↔ (m.val < x.val ∧ Q m) ∨ m = x := by
  constructor
  · rintro ⟨hm, hQ⟩
    by_cases hmx : m.val < x.val
    · exact .inl ⟨hmx, hQ⟩
    · exact .inr (Fin.ext (by omega))
  · rintro (⟨hm, hQ⟩ | rfl)
    · exact ⟨by omega, hQ⟩
    · exact ⟨by omega, hx⟩

theorem lt_succ_and_iff_of_not {Q : Fin 4 → Prop} {x : Fin 4} (hx : ¬ Q x) (m : Fin 4) :
    (m.val < x.val + 1 ∧ Q m) ↔ (m.val < x.val ∧ Q m) := by
  refine ⟨fun ⟨hm, hQ⟩ => ⟨?_, hQ⟩, fun ⟨hm, hQ⟩ => ⟨by omega, hQ⟩⟩
  have : m ≠ x := fun h => hx (h ▸ hQ)
  have : m.val ≠ x.val := fun h => this (Fin.ext h)
  omega

/-- The extreme of one more value, which counts when it is valid. -/
theorem IsExtreme.next {up : Bool} {invalid : Fin 4 → Bool} {f : Fin 4 → BitVec 12} {v : BitVec 12} {x : Fin 4}
    (h : IsExtreme up (fun m => m.val < x.val ∧ invalid m = false) f v) :
    IsExtreme up (fun m => m.val < x.val + 1 ∧ invalid m = false) f (if invalid x then v else extremeOf up v (f x)) := by
  by_cases hi : invalid x = true
  · rw [if_pos hi]
    exact h.congr (lt_succ_and_iff_of_not (Q := fun m => invalid m = false) (by simp [hi]))
  · rw [if_neg hi]
    exact (h.insert x).congr (lt_succ_and_iff (Q := fun m => invalid m = false) (by simpa using hi))

theorem forall_lt_set {α : Type} {a : Vector α 4} {f : Fin 4 → α} {x : Fin 4}
    (h : ∀ m : Fin 4, m.val < x.val → a[m] = f m) : ∀ m : Fin 4, m.val < x.val + 1 → (a.set x (f x))[m] = f m := by
  rw [forall_fin_lt_succ]
  refine ⟨fun m hm => ?_, ?_⟩
  · rw [Fin.getElem_fin, Vector.getElem_set_ne _ _ (by omega)]
    exact h m hm
  · simp

theorem Collected.startLine (c : TriCmd) (p : WalkSetup) (j : Int) (w : Walk) : Collected c p j 0 (w.startLine p) := by
  obtain ⟨hminor, hmajor⟩ := w.startLine_bounds p
  have hf : (w.startLine p).st.gs.flags = { w.st.gs.flags with allover := true, allunder := true, allinval := true } := by
    rw [Walk.startLine_st]
    rfl
  constructor
  case minor => rw [hminor]; exact .start fun n h => absurd h.1 (Nat.not_lt_zero _)
  case major => rw [hmajor]; exact .start fun n h => absurd h.1 (Nat.not_lt_zero _)
  all_goals simp [hf]

theorem Collected.subScanline {p : WalkSetup} {j : Int} {x : Fin 4} {w : Walk} (h : Collected c p j x.val w)
    (hw : Entered c (4 * j + x.val) w) (hj : 0 ≤ j ∧ j < Config.maxScanlines) :
    Collected c p j (x.val + 1) (w.subScanline p (4 * j + x.val) j x) := by
  have hright : cross p.clipxh p.clipxl w.xright = majorAt c p (4 * j + x.val) := by rw [hw.xright]; rfl
  have hleft : cross p.clipxh p.clipxl w.xleft = minorAt c p (4 * j + x.val) := by rw [hw.xleft]; rfl
  have hinvalid : w.invalid p (4 * j + x.val) = invalidAt c p (4 * j + x.val) := by
    unfold Walk.invalid
    rw [hw.xright, hw.xleft]
    rfl
  have hspan := Walk.subScanline_spanAt (p := p) (k := 4 * j + x.val) (x := x) (w := w) hj
  have hflags : (w.subScanline p (4 * j + x.val) j x).st.gs.flags = w.aggregated p (4 * j + x.val) w.st.gs.flags := by
    rw [Walk.subScanline_st]
    rfl
  obtain ⟨hminor, hmajor⟩ := w.subScanline_bounds p (4 * j + x.val) j x
  rw [hinvalid, hleft] at hminor
  rw [hinvalid, hright] at hmajor
  constructor
  · rw [hspan]
    unfold Walk.crossed
    rw [hright]
    exact forall_lt_set (f := fun m => (majorAt c p (4 * j + m.val)).xsc.setWidth 13) h.majorx
  · rw [hspan]
    unfold Walk.crossed
    rw [hleft]
    exact forall_lt_set (f := fun m => (minorAt c p (4 * j + m.val)).xsc.setWidth 13) h.minorx
  · rw [hspan]
    unfold Walk.crossed
    rw [hinvalid]
    exact forall_lt_set (f := fun m => invalidAt c p (4 * j + m.val)) h.invalyscan
  · rw [hflags, forall_fin_lt_succ, ← h.allover, ← hright, ← hleft]
    simp [Walk.aggregated, and_assoc]
  · rw [hflags, forall_fin_lt_succ, ← h.allunder, ← hright, ← hleft]
    simp [Walk.aggregated, and_assoc]
  · rw [hflags, forall_fin_lt_succ, ← h.allinval, ← hinvalid]
    simp [Walk.aggregated]
  · rw [hminor]
    exact h.minor.next (invalid := fun m => invalidAt c p (4 * j + m.val))
  · rw [hmajor]
    exact h.major.next (invalid := fun m => invalidAt c p (4 * j + m.val))

/-! ### The whole scanline (R180, R188, R190) -/

/-- `unscrx` and the attributes stay as a later sub-scanline is stored. -/
theorem Loaded.subScanline {p : WalkSetup} {k j : Int} {x : Fin 4} {w : Walk} (hj : 0 ≤ j ∧ j < Config.maxScanlines)
    (h : Loaded c p j (w.st.spanAt j)) : Loaded c p j ((w.subScanline p k j x).st.spanAt j) := by
  rw [Walk.subScanline_spanAt hj]
  exact ⟨h.unscrx, h.attrs⟩

theorem Walk.loadAttrs_spanAt {p : WalkSetup} {j : Int} {w : Walk} (hj : 0 ≤ j ∧ j < Config.maxScanlines) :
    (w.loadAttrs p j).st.spanAt j =
      { w.st.spanAt j with unscrx := w.xright.extractLsb' 16 12, attrs := adjustAttrs p w.xright w.attrs } :=
  (State.putSpan_spanAt w.st j j _).trans (if_pos ⟨rfl, hj⟩)

theorem Collected.loadAttrs {p : WalkSetup} {j : Int} {n : Nat} {w : Walk} (h : Collected c p j n w)
    (hj : 0 ≤ j ∧ j < Config.maxScanlines) : Collected c p j n (w.loadAttrs p j) := by
  have hspan := Walk.loadAttrs_spanAt (p := p) (w := w) hj
  have hflags : (w.loadAttrs p j).st.gs.flags = w.st.gs.flags := State.putSpan_flags _ _
  obtain ⟨h1, h2, h3, h4, h5, h6, h7, h8⟩ := h
  exact ⟨by rwa [hspan], by rwa [hspan], by rwa [hspan], by rwa [hflags], by rwa [hflags], by rwa [hflags], h7, h8⟩

/-- One more sub-scanline of a scanline. -/
theorem LinePart.collect {p : WalkSetup} {j : Int} {x : Fin 4} {w : Walk} (hw : Entered c (4 * j + x.val) w)
    (hj : 0 ≤ j ∧ j < Config.maxScanlines) (h : 0 < x.val → LinePart c p j x.val w) :
    LinePart c p j (x.val + 1) (w.collect p (4 * j + x.val) x) := by
  have hquarter : (4 * j + (x.val : Int)) / 4 = j := by omega
  have hbegin : LinePart c p j x.val (w.begin p x) := by
    unfold Walk.begin
    by_cases hx : x = 0
    · rw [if_pos hx, hx]
      exact ⟨.startLine c p j w, fun h => absurd h (Nat.not_lt_zero _)⟩
    · rw [if_neg hx]
      exact h (Nat.pos_of_ne_zero fun h => hx (Fin.ext h))
  have hentered := hw.begin p x
  have hsub := hbegin.collected.subScanline hentered hj
  unfold Walk.collect
  simp only [hquarter]
  split
  · next hld =>
    refine ⟨hsub.loadAttrs hj, fun _ => ?_⟩
    have e := SameEdges.subScanline p (4 * j + x.val) j x (w.begin p x)
    rw [Walk.loadAttrs_spanAt hj, e.xright, e.attrs, hentered.xright, hentered.attrs, hquarter, hld]
    exact ⟨rfl, rfl⟩
  · next hld => exact ⟨hsub, fun h => (hbegin.loaded (by omega)).subScanline hj⟩

/-- The entry of a scanline that the walk has finished. -/
structure LineDone (c : TriCmd) (s : State) (p : WalkSetup) (j : Int) (e : Span) : Prop where
  majorx : ∀ m : Fin 4, e.majorx[m] = (majorAt c p (4 * j + m.val)).xsc.setWidth 13
  minorx : ∀ m : Fin 4, e.minorx[m] = (minorAt c p (4 * j + m.val)).xsc.setWidth 13
  invalyscan : ∀ m : Fin 4, e.invalyscan[m] = invalidAt c p (4 * j + m.val)
  loaded : Loaded c p j e
  lx : IsExtreme p.flip (fun m => invalidAt c p (4 * j + m.val) = false) (fun m => (minorAt c p (4 * j + m.val)).pixel) e.lx
  rx : IsExtreme (!p.flip) (fun m => invalidAt c p (4 * j + m.val) = false) (fun m => (majorAt c p (4 * j + m.val)).pixel) e.rx
  validline : e.validline = true ↔
    (¬ ∀ m : Fin 4, invalidAt c p (4 * j + m.val) = true) ∧
    (¬ ∀ m : Fin 4, (majorAt c p (4 * j + m.val)).isOver = true ∧ (minorAt c p (4 * j + m.val)).isOver = true) ∧
    (¬ ∀ m : Fin 4, (majorAt c p (4 * j + m.val)).isUnder = true ∧ (minorAt c p (4 * j + m.val)).isUnder = true) ∧
    (s.gs.clip.scfield = true → (s.gs.clip.sckeepodd = true ↔ j % 2 = 1)) ∧
    j % s.gs.misc.stride = s.gs.misc.workerOffset

theorem validLine_iff (s : State) (j : Int) : validLine s j = true ↔
    ¬ s.gs.flags.allinval = true ∧ ¬ s.gs.flags.allover = true ∧ ¬ s.gs.flags.allunder = true ∧
    (s.gs.clip.scfield = true → (s.gs.clip.sckeepodd = true ↔ j % 2 = 1)) ∧
    j % s.gs.misc.stride = s.gs.misc.workerOffset := by
  unfold validLine
  cases s.gs.clip.scfield <;> cases s.gs.clip.sckeepodd <;> simp [and_assoc]

theorem Walk.finalise_spanAt {p : WalkSetup} {j : Int} {w : Walk} (hj : 0 ≤ j ∧ j < Config.maxScanlines) :
    (w.finalise p j).st.spanAt j =
      { w.st.spanAt j with lx := w.minorBound p, rx := w.majorBound p, validline := validLine w.st j } := by
  refine (State.putSpan_spanAt w.st j j _).trans ((if_pos ⟨rfl, hj⟩).trans ?_)
  unfold Walk.minorBound Walk.majorBound
  cases p.flip <;> rfl

/-- `FINALISE` after the four sub-scanlines (R188, R190). -/
theorem LinePart.finalise {p : WalkSetup} {j : Int} {w : Walk} (h : LinePart c p j 4 w) (hld : p.ldflag < 4)
    (hj : 0 ≤ j ∧ j < Config.maxScanlines) (hclip : w.st.gs.clip = s.gs.clip)
    (hstride : w.st.gs.misc.stride = s.gs.misc.stride) (hoffset : w.st.gs.misc.workerOffset = s.gs.misc.workerOffset) :
    LineDone c s p j ((w.finalise p j).st.spanAt j) := by
  obtain ⟨⟨hmajorx, hminorx, hinval, hover, hunder, hallinval, hminor, hmajor⟩, hloaded⟩ := h
  obtain ⟨hunscrx, hattrs⟩ := hloaded hld
  simp only [Fin.is_lt, true_and, forall_const] at hmajorx hminorx hinval hover hunder hallinval hminor hmajor
  rw [Walk.finalise_spanAt hj]
  exact ⟨hmajorx, hminorx, hinval, ⟨hunscrx, hattrs⟩, hminor, hmajor, by
    rw [validLine_iff, hover, hunder, hallinval, hclip, hstride, hoffset]⟩

theorem walkSetup_ldflag_lt (c : TriCmd) (s : State) : (walkSetup c s).ldflag < 4 := by
  show (if _ then 0 else 3) < 4
  split <;> decide

theorem LinePart.advance {p : WalkSetup} {j : Int} {n : Nat} {w : Walk} (h : LinePart c p j n w) (k : Int) :
    LinePart c p j n (w.advance p k) :=
  ⟨{ h.collected with }, h.loaded⟩

theorem LinePart.enter {p : WalkSetup} {j : Int} {n : Nat} {w : Walk} (h : LinePart c p j n w) (k : Int) :
    LinePart c p j n (w.enter p k) := by
  unfold Walk.enter
  simp only
  split <;> exact ⟨{ h.collected with }, h.loaded⟩

/-- One iteration on a stored scanline. -/
theorem walkStep_line {j : Int} {x : Fin 4} {w : Walk} (hw : WalkAt c (4 * j + x.val) w)
    (hk : quarterFloor c.yh.toInt ≤ 4 * j + x.val) (hclose : (walkSetup c s).yhclose ≤ 4 * j + x.val)
    (hj : 0 ≤ j ∧ j < Config.maxScanlines) (hframe : LineFrame (s.intake c) w.st)
    (h : 0 < x.val → LinePart c (walkSetup c s) j x.val w) :
    (x ≠ 3 → LinePart c (walkSetup c s) j (x.val + 1) (walkStep (walkSetup c s) (4 * j + x.val) w)) ∧
    (x = 3 → LineDone c s (walkSetup c s) j ((walkStep (walkSetup c s) (4 * j + x.val) w).st.spanAt j)) := by
  have hspix : spixOf (4 * j + x.val) = x := by
    unfold spixOf
    ext
    show ((4 * j + (x.val : Int)) % 4).toNat % 4 = x.val
    omega
  have hquarter : (4 * j + (x.val : Int)) / 4 = j := by omega
  have hpart := LinePart.collect (hw.enter hk s) hj fun hx => (h hx).enter _
  rw [walkStep_eq, if_pos hclose, hspix, Walk.store_eq, hquarter]
  refine ⟨fun hx => ?_, fun hx => ?_⟩
  · rw [if_neg hx]
    exact hpart.advance _
  · have hkeep := (hframe.trans (LineStep.enter (walkSetup c s) 0 (4 * j + x.val) w).frame).trans
      (LineStep.collect (walkSetup c s) (4 * j + x.val) x _).frame
    rw [if_pos hx]
    subst hx
    exact hpart.finalise (walkSetup_ldflag_lt c s) hj (congrArg (fun m : State => m.gs.clip) hkeep :)
      (congrArg (fun m : State => m.gs.misc.stride) hkeep :) (congrArg (fun m : State => m.gs.misc.workerOffset) hkeep :)

/-! ### The whole walk -/

/-- The invariant of the walk for scanline `j`: it is filled in four iterations and then left alone. -/
structure WalkLine (c : TriCmd) (s : State) (j k : Int) (w : Walk) : Prop where
  edges : WalkAt c k w
  frame : LineFrame (s.intake c) w.st
  part : ∀ x : Fin 4, k = 4 * j + x.val → 0 < x.val → LinePart c (walkSetup c s) j x.val w
  done : 4 * j + 4 ≤ k → LineDone c s (walkSetup c s) j (w.st.spanAt j)

theorem WalkLine.step {j k : Int} {w : Walk} (h : WalkLine c s j k w) (hk : quarterFloor c.yh.toInt ≤ k)
    (hclose : (walkSetup c s).yhclose ≤ 4 * j) (hj : 0 ≤ j ∧ j < Config.maxScanlines) :
    WalkLine c s j (k + 1) (walkStep (walkSetup c s) k w) := by
  have hstep := LineStep.walkStep (walkSetup c s) k w
  obtain ⟨hedges, hframe, hpart, hdone⟩ := h
  have hedges' := walkStep_at (s := s) hk hedges
  have hframe' := hframe.trans hstep.frame
  by_cases hbefore : k < 4 * j
  · exact ⟨hedges', hframe', fun x hx hpos => by omega, fun h => by omega⟩
  by_cases hafter : 4 * j + 4 ≤ k
  · refine ⟨hedges', hframe', fun x hx hpos => by omega, fun _ => ?_⟩
    rw [hstep.others j (by omega)]
    exact hdone hafter
  obtain ⟨x, rfl⟩ : ∃ x : Fin 4, k = 4 * j + x.val := ⟨⟨(k - 4 * j).toNat, by omega⟩, by simp only; omega⟩
  obtain ⟨hmore, hlast⟩ := walkStep_line hedges hk (by omega) hj hframe (hpart x rfl)
  refine ⟨hedges', hframe', fun y hy _ => ?_, fun h => hlast (Fin.ext ?_)⟩
  · have hyx : y.val = x.val + 1 := by omega
    rw [hyx]
    exact hmore fun hx => by subst hx; exact absurd hyx (by omega)
  · show x.val = 3
    omega

theorem walkSetup_yhclose (c : TriCmd) (s : State) : (walkSetup c s).yhclose = 4 * (yHighLimit c.yh s.gs.clip.yh / 4) :=
  Int.mul_comm _ _

/-- The last scanline of the walk (R180). -/
def lastLine (c : TriCmd) (s : State) : Int :=
  let lo := yLowLimit c.yl s.gs.clip.yl / 4
  if lo < c.yl.toInt / 4 then lo + 1 else lo

theorem walkSetup_ylfar (c : TriCmd) (s : State) : (walkSetup c s).ylfar = 4 * lastLine c s + 3 := by
  show (if decide ((quarterFloor (yLowLimit c.yl s.gs.clip.yl) + 3) / 4 < c.yl.toInt / 4) = true then
    quarterFloor (yLowLimit c.yl s.gs.clip.yl) + 3 + 4 else quarterFloor (yLowLimit c.yl s.gs.clip.yl) + 3) = _
  unfold lastLine quarterFloor
  simp only [decide_eq_true_eq]
  split <;> split <;> omega

/-- The walk starts no lower than the first scanline it stores. -/
theorem yh_le_yHighLimit (yh : BitVec 14) (clipYh : BitVec 12) : yh.toInt ≤ yHighLimit yh clipYh := by
  have hsign : yh.getLsbD 13 = decide (yh.toInt < 0) :=
    (BitVec.msb_eq_getLsbD_last yh).symm.trans BitVec.msb_eq_toInt
  unfold yHighLimit
  rw [hsign]
  by_cases hneg : yh.toInt < 0
  · simp only [hneg, decide_true, if_true, Bool.false_eq_true, if_false]
    omega
  · simp only [hneg, decide_false, Bool.false_eq_true, if_false]
    cases yh.getLsbD 12 with
    | true => exact le_refl _
    | false =>
      simp only [Bool.false_eq_true, if_false, decide_eq_true_eq]
      split <;> omega

/-- The entry of every scanline that the walk stores. -/
theorem State.edgewalk_line {j : Int} (hfirst : yHighLimit c.yh s.gs.clip.yh / 4 ≤ j) (hlast : j ≤ lastLine c s)
    (hj : 0 ≤ j ∧ j < Config.maxScanlines) : LineDone c s (walkSetup c s) j ((s.edgewalk c).spanAt j) := by
  have hyh := yh_le_yHighLimit c.yh s.gs.clip.yh
  have hclose := walkSetup_yhclose c s
  have hfar := walkSetup_ylfar c s
  obtain ⟨hcur, -⟩ := walk_count c s
  have hfloor : quarterFloor c.yh.toInt = (walkSetup c s).ycur := rfl
  have hinv := forUp_inv (WalkLine c s j) (count (walkSetup c s).ycur (walkSetup c s).ylfar) (walkSetup c s).ycur
    (walkStart c (walkSetup c s) (s.intake c)) (fun k w hk _ hw => hw.step hk (by omega) hj)
    ⟨walkStart_at c _ _, .walkStart c _ _, fun x hx hpos => by omega, fun h => by omega⟩
  refine hinv.done ?_
  unfold count
  omega

/-- No other entry changes in the walk. -/
theorem State.edgewalk_spanAt_other {j : Int} (hj : ¬ (yHighLimit c.yh s.gs.clip.yh / 4 ≤ j ∧ j ≤ lastLine c s)) :
    (s.edgewalk c).spanAt j = (walkStart c (walkSetup c s) (s.intake c)).st.spanAt j := by
  have hclose := walkSetup_yhclose c s
  have hfar := walkSetup_ylfar c s
  refine forUp_inv (fun _ (w : Walk) => w.st.spanAt j = (walkStart c (walkSetup c s) (s.intake c)).st.spanAt j) _ _ _
    (fun k w h1 h2 hw => ?_) rfl
  rw [← hw]
  have hk := lt_count h2 h1
  by_cases hstored : (walkSetup c s).yhclose ≤ k
  · exact (LineStep.walkStep _ k w).others j (by rw [walkSetup_intake] at hk; omega)
  · rw [walkSetup_intake, walkStep_eq, if_neg hstored]
    exact (LineStep.enter _ (j + 1) k w).others j (by omega)

theorem walkStart_spanAt (c : TriCmd) (p : WalkSetup) (s : State) (j : Int) : (walkStart c p s).st.spanAt j =
    if p.clearNext = true ∧ j = p.yllimit / 4 + 1 ∧ 0 ≤ j ∧ j < Config.maxScanlines then
      { s.spanAt j with validline := false } else s.spanAt j := by
  unfold walkStart
  cases p.clearNext with
  | false => simp
  | true =>
    show State.spanAt (s.putSpan _ _) j = _
    rw [State.putSpan_spanAt]
    by_cases hj : j = p.yllimit / 4 + 1
    · subst hj
      simp
    · simp [hj]

/-! ### The edges as integers (R124, R180) -/

/-- An edge after `n` quarter-scanlines. -/
def edgeValue (x slope : Word) (n : Int) : Int :=
  ((x.toInt.bmod (2 ^ 28)) / 2 * 2 + n * ((slope.toInt.bmod (2 ^ 30)) / 4 / 2 * 2)).bmod (2 ^ 32)

/-- The major edge on sub-scanline `k`. -/
def majorValue (c : TriCmd) (k : Int) : Int := edgeValue c.xh c.dxhdy (k - 4 * (c.yh.toInt / 4))

/-- The minor edge on sub-scanline `k`. -/
def minorValue (c : TriCmd) (k : Int) : Int :=
  if 4 * (c.yh.toInt / 4) ≤ c.ym.toInt ∧ c.ym.toInt ≤ k then edgeValue c.xl c.dxldy (k - c.ym.toInt)
  else edgeValue c.xm c.dxmdy (k - 4 * (c.yh.toInt / 4))

theorem edgePos_toInt (v : Word) : (edgePos v).toInt = v.toInt.bmod (2 ^ 28) / 2 * 2 := by
  have h : (sext28 v).toInt = v.toInt.bmod (2 ^ 28) :=
    (BitVec.toInt_signExtend_of_le (by decide)).trans (setWidth_toInt 28 v (by decide))
  exact (clearLow_toInt (sext28 v) 1 (by decide)).trans (by rw [h]; rfl)

theorem edgeInc_toInt (v : Word) : (edgeInc v).toInt = v.toInt.bmod (2 ^ 30) / 4 / 2 * 2 := by
  have h : (sext30 v).toInt = v.toInt.bmod (2 ^ 30) :=
    (BitVec.toInt_signExtend_of_le (by decide)).trans (setWidth_toInt 30 v (by decide))
  exact (clearLow_toInt ((sext30 v).sshiftRight 2) 1 (by decide)).trans (by rw [sshiftRight_toInt, h]; rfl)

theorem add_ofInt_mul_toInt (a d : Word) (n : Int) :
    (a + BitVec.ofInt 32 n * d).toInt = (a.toInt + n * d.toInt).bmod (2 ^ 32) := by
  rw [BitVec.toInt_add, BitVec.toInt_mul, BitVec.toInt_ofInt, Int.bmod_mul_bmod, Int.add_bmod_bmod]

theorem edge_toInt (x slope : Word) (n : Int) :
    (edgePos x + BitVec.ofInt 32 n * edgeInc slope).toInt = edgeValue x slope n := by
  rw [add_ofInt_mul_toInt, edgePos_toInt, edgeInc_toInt]
  rfl

theorem quarterFloor_eq (y : Int) : quarterFloor y = 4 * (y / 4) := Int.mul_comm _ _

theorem rightAt_toInt (c : TriCmd) (k : Int) : (rightAt c k).toInt = majorValue c k := by
  unfold rightAt majorValue
  rw [edge_toInt, quarterFloor_eq]

theorem leftAt_toInt (c : TriCmd) (k : Int) : (leftAt c k).toInt = minorValue c k := by
  unfold leftAt minorValue
  rw [apply_ite BitVec.toInt, edge_toInt, edge_toInt, quarterFloor_eq]

/-! ### Bit fields of a word as integers -/

theorem extractLsb'_toInt (v : Word) {a n : Nat} (h : a + n ≤ 32) :
    (v.extractLsb' a n).toInt = (v.toInt / 2 ^ a).bmod (2 ^ n) := by
  have e : v.extractLsb' a n = (v.sshiftRight a).setWidth n := by
    ext i hi
    simp [BitVec.getElem_setWidth, BitVec.getLsbD_sshiftRight, show ¬ 32 ≤ i by omega, show a + i < 32 by omega]
  rw [e, setWidth_toInt n _ (by omega), sshiftRight_toInt]

theorem toInt_emod (v : Word) : v.toInt % 2 ^ 32 = v.toNat := by
  have := v.isLt
  rw [BitVec.toInt_eq_toNat_cond]
  split <;> omega

theorem getLsbD_eq_decide {n : Nat} (v : BitVec n) (k : Nat) : v.getLsbD k = decide (v.toNat / 2 ^ k % 2 = 1) :=
  Nat.testBit_eq_decide_div_mod_eq

/-- A field of ones above the lowest `b` bits. -/
theorem and_field (n a b : Nat) : n &&& ((2 ^ a - 1) <<< b) = n / 2 ^ b % 2 ^ a * 2 ^ b := by
  apply Nat.eq_of_testBit_eq
  intro i
  by_cases h : b ≤ i
  · simp [Nat.testBit_shiftLeft, Nat.testBit_mul_two_pow, Nat.testBit_mod_two_pow, Nat.testBit_div_two_pow, h,
      Nat.testBit_two_pow_sub_one, Bool.and_comm]
  · simp [Nat.testBit_shiftLeft, Nat.testBit_mul_two_pow, h]

/-! ### Crossings as integers (R182, R184) -/

/-- The low bits of an edge position shifted right, for a field that ends below bit 31. -/
theorem sshiftRight_field (v : Word) (k : Nat) (hk : k ≤ 13) :
    (v.sshiftRight k).toNat % 2 ^ 18 = v.toNat / 2 ^ k % 2 ^ 18 := by
  have h1 := toInt_emod (v.sshiftRight k)
  have h2 := toInt_emod v
  rw [sshiftRight_toInt] at h1
  interval_cases k <;> omega

/-- The sticky bit of a crossing. -/
def stickyBit (v : Word) : Word := if v.sshiftRight 1 &&& 0x1FFF ≠ 0 then 1 else 0

theorem stickyBit_toNat (v : Word) : (stickyBit v).toNat = if v.toNat / 2 % 0x2000 = 0 then 0 else 1 := by
  have h : (v.sshiftRight 1 &&& 0x1FFF).toNat = v.toNat / 2 % 0x2000 := by
    have := sshiftRight_field v 1 (by decide)
    have hand : (v.sshiftRight 1 &&& 0x1FFF).toNat = (v.sshiftRight 1).toNat % 2 ^ 13 := Nat.and_two_pow_sub_one_eq_mod _ 13
    omega
  have hzero : v.sshiftRight 1 &&& 0x1FFF = 0 ↔ (v.sshiftRight 1 &&& 0x1FFF).toNat = 0 := BitVec.toNat_inj.symm
  unfold stickyBit
  by_cases h0 : v.toNat / 2 % 0x2000 = 0
  · rw [if_neg (by rw [Ne, not_not, hzero, h, h0]), if_pos h0]
    rfl
  · rw [if_pos (by rwa [Ne, hzero, h]), if_neg h0]
    rfl

/-- The low 28 bits of an edge position. -/
theorem toInt_emod_28 (v : Word) : v.toInt % 2 ^ 28 = ((v.toNat % 2 ^ 28 : Nat) : Int) := by
  have := toInt_emod v
  omega

/-- An edge position in units of 1/8 pixel with the sticky bit, of `n` bits above it. -/
theorem crossingBits_toNat (v : Word) {n : Nat} {m : Int} (hn : n = 12 ∧ m = 0x2000 ∨ n = 13 ∧ m = 0x4000) :
    ((((v.sshiftRight 13 &&& BitVec.ofNat 32 ((2 ^ n - 1) <<< 1)) ||| stickyBit v).setWidth 14).toNat : Int) =
      v.toInt % 2 ^ 28 / 0x2000 % m / 2 * 2 + if v.toInt % 2 ^ 28 / 2 % 0x2000 = 0 then 0 else 1 := by
  have hfield := sshiftRight_field v 13 (by decide)
  have hmask : (2 ^ n - 1) <<< 1 < 2 ^ 32 := by obtain ⟨rfl, rfl⟩ | ⟨rfl, rfl⟩ := hn <;> decide
  have hpos : (v.sshiftRight 13).toNat / 2 ^ 1 % 2 ^ n = v.toNat % 2 ^ 28 / 0x4000 % 2 ^ n := by
    obtain ⟨rfl, rfl⟩ | ⟨rfl, rfl⟩ := hn <;> omega
  have hsticky : v.toNat / 2 % 0x2000 = v.toNat % 2 ^ 28 / 2 % 0x2000 := by omega
  rw [BitVec.toNat_setWidth, BitVec.toNat_or, BitVec.toNat_and, BitVec.toNat_ofNat, Nat.mod_eq_of_lt hmask, and_field, hpos,
    stickyBit_toNat, hsticky, toInt_emod_28]
  generalize v.toNat % 2 ^ 28 = u
  have hor : ∀ b < 2, u / 0x4000 % 2 ^ n * 2 ^ 1 ||| b = u / 0x4000 % 2 ^ n * 2 ^ 1 + b := fun b hb => by
    rw [Nat.mul_comm]
    exact (Nat.two_pow_add_eq_or_of_lt hb _).symm
  rw [hor _ (by split <;> decide)]
  obtain ⟨rfl, rfl⟩ | ⟨rfl, rfl⟩ := hn <;> split <;> split <;> omega

/-- A crossing of the model and the crossing it stands for. -/
structure SameCrossing (x : Crossing) (y : EdgeCrossing) : Prop where
  xsc : (x.xsc.toNat : Int) = y.xsc
  isOver : x.isOver = y.isOver
  isUnder : x.isUnder = y.isUnder

theorem clipBound_toNat (x : BitVec 12) : (x.setWidth 14 <<< 1 : BitVec 14).toNat = 2 * x.toNat := by
  rw [BitVec.toNat_shiftLeft, BitVec.toNat_setWidth, Nat.shiftLeft_eq]
  omega

/-- Left of the scissor (R182). -/
theorem crossing_isUnder (xh : BitVec 12) (v : Word) {low : BitVec 14} {y : Int} (h : (low.toNat : Int) = y) :
    (v.getLsbD 27 || (decide (low < xh.setWidth 14 <<< 1) && !v.getLsbD 26)) =
      (decide (0x8000000 ≤ v.toInt % 2 ^ 28) ||
        (decide (y < ((2 * xh.toNat : Nat) : Int)) && decide (v.toInt % 2 ^ 28 / 0x4000000 % 2 = 0))) := by
  have h27 : v.getLsbD 27 = decide (0x8000000 ≤ v.toInt % 2 ^ 28) := by
    rw [getLsbD_eq_decide, decide_eq_decide, toInt_emod_28]
    omega
  have h26 : (!v.getLsbD 26) = decide (v.toInt % 2 ^ 28 / 0x4000000 % 2 = 0) := by
    rw [getLsbD_eq_decide, ← decide_not, decide_eq_decide, toInt_emod_28]
    omega
  have hclip : decide (low < xh.setWidth 14 <<< 1) = decide (y < ((2 * xh.toNat : Nat) : Int)) := by
    rw [decide_eq_decide, BitVec.lt_def, clipBound_toNat]
    omega
  rw [h27, h26, hclip]

/-- At or right of the scissor's right edge, and the crossing that leaves (R182). -/
theorem crossing_isOver (xl : BitVec 12) {x : BitVec 14} {y : Int} (h : (x.toNat : Int) = y) :
    (x.getLsbD 13 || decide (xl.setWidth 14 <<< 1 ≤ x &&& 0x1FFF)) =
      (decide (y / 0x2000 % 2 = 1) || decide (((2 * xl.toNat : Nat) : Int) ≤ y % 0x2000)) := by
  subst h
  have hmask : (x &&& 0x1FFF).toNat = x.toNat % 2 ^ 13 := Nat.and_two_pow_sub_one_eq_mod _ 13
  have h13 : x.getLsbD 13 = decide ((x.toNat : Int) / 0x2000 % 2 = 1) := by
    rw [getLsbD_eq_decide, decide_eq_decide]
    omega
  have hclip : decide (xl.setWidth 14 <<< 1 ≤ x &&& 0x1FFF) =
      decide (((2 * xl.toNat : Nat) : Int) ≤ (x.toNat : Int) % 0x2000) := by
    rw [decide_eq_decide, BitVec.le_def, clipBound_toNat, hmask]
    omega
  rw [h13, hclip]

theorem ite_clipBound_toNat {a b : Bool} (hab : a = b) (clip : BitVec 12) {x : BitVec 14} {y : Int} (h : (x.toNat : Int) = y) :
    ((if a then clip.setWidth 14 <<< 1 else x : BitVec 14).toNat : Int) = if b then ((2 * clip.toNat : Nat) : Int) else y := by
  subst hab
  cases a
  · exact h
  · exact congrArg Nat.cast (clipBound_toNat clip)

/-- `CROSS` as the formulas of R182. -/
theorem cross_sameCrossing (xh xl : BitVec 12) (v : Word) :
    SameCrossing (cross (xh.setWidth 14 <<< 1) (xl.setWidth 14 <<< 1) v)
      (crossing (2 * xh.toNat) (2 * xl.toNat) (v.toInt % 2 ^ 28)) := by
  have hunder := crossing_isUnder xh v (crossingBits_toNat v (.inl ⟨rfl, rfl⟩))
  have hx := ite_clipBound_toNat hunder xh (crossingBits_toNat v (.inr ⟨rfl, rfl⟩))
  have hover := crossing_isOver xl hx
  exact ⟨ite_clipBound_toNat hover xl hx, hover, hunder⟩

theorem xor_two_pow_27 (n : Nat) : (n ^^^ 2 ^ 27) % 2 ^ 28 = (n + 2 ^ 27) % 2 ^ 28 := by
  have hlow : (n ^^^ 2 ^ 27) % 2 ^ 27 = n % 2 ^ 27 := by rw [Nat.xor_mod_two_pow]; simp
  have hhigh : (n ^^^ 2 ^ 27) / 2 ^ 27 = n / 2 ^ 27 ^^^ 1 := by
    rw [Nat.xor_div_two_pow, Nat.div_self (by decide)]
  have hbit : (n / 2 ^ 27 ^^^ 1) % 2 = (n / 2 ^ 27 + 1) % 2 := Nat.xor_mod_two_eq
  omega

/-- `KEY` as an integer (R184). -/
theorem edgeKey_toNat (v : Word) : ((edgeKey v).toNat : Int) = (v.toInt + 2 ^ 27) % 2 ^ 28 / 2 ^ 14 * 2 ^ 14 := by
  have hmask : (edgeKey v).toNat = (v.toNat ^^^ 2 ^ 27) &&& ((2 ^ 14 - 1) <<< 14) := rfl
  have hxor := xor_two_pow_27 v.toNat
  have hv := toInt_emod v
  rw [hmask, and_field]
  omega

theorem edgeKey_lt_iff (v w : Word) : edgeKey v < edgeKey w ↔
    (v.toInt + 2 ^ 27) % 2 ^ 28 / 2 ^ 14 < (w.toInt + 2 ^ 27) % 2 ^ 28 / 2 ^ 14 := by
  have hv := edgeKey_toNat v
  have hw := edgeKey_toNat w
  rw [BitVec.lt_def]
  omega

/-! ### Attributes as integers (R186, R192) -/

/-- Rounding down to 512 or 1024 commutes with the wrap to 32 bits. -/
theorem bmod_floor (v : Int) {d : Int} (hd : d = 512 ∨ d = 1024) :
    v.bmod (2 ^ 32) / d * d = (v / d * d).bmod (2 ^ 32) := by
  simp only [Int.bmod_def]
  obtain rfl | rfl := hd <;> split <;> split <;> omega

theorem floor512_toInt (v : Word) : (v &&& 0xFFFFFE00).toInt = v.toInt / 512 * 512 := clearLow_toInt v 9 (by decide)

theorem floor1024_toInt (v : Word) : (v &&& 0xFFFFFC00).toInt = v.toInt / 1024 * 1024 := clearLow_toInt v 10 (by decide)

theorem attrDiff_toInt (de dy : Word) : (attrDiff de dy).toInt =
    (de.toInt / 512 * 512 - de.toInt / 512 * 512 / 4 - dy.toInt / 512 * 512 + dy.toInt / 512 * 512 / 4).bmod (2 ^ 32) := by
  unfold attrDiff
  simp only [BitVec.toInt_add, BitVec.toInt_sub, sshiftRight_toInt, floor512_toInt, Int.bmod_add_bmod,
    Int.bmod_sub_bmod]
  rfl

/-- One attribute at the integer x of the major edge (R186). -/
def adjustAttr (offset copy : Bool) (x : Word) (n : Int) (k : Coeff) : Word :=
  ((k.base + BitVec.ofInt 32 n * k.de &&& 0xFFFFFE00) + (if offset then attrDiff k.de k.dy else 0) -
    (x.extractLsb' 8 8).setWidth 32 * (if copy then 0 else k.dx.sshiftRight 8 &&& ~~~1#32)) &&& 0xFFFFFC00

theorem adjustAttr_toInt (offset copy : Bool) (x : Word) (n : Int) (k : Coeff) :
    (adjustAttr offset copy x n k).toInt =
      (((k.base.toInt + n * k.de.toInt) / 512 * 512 +
        (if offset then k.de.toInt / 512 * 512 - k.de.toInt / 512 * 512 / 4 - k.dy.toInt / 512 * 512 +
          k.dy.toInt / 512 * 512 / 4 else 0) -
        x.toInt / 256 % 256 * (if copy then 0 else k.dx.toInt / 256 / 2 * 2)) / 1024 * 1024).bmod (2 ^ 32) := by
  have hdiff : (if offset then attrDiff k.de k.dy else 0).toInt = (if offset then k.de.toInt / 512 * 512 -
      k.de.toInt / 512 * 512 / 4 - k.dy.toInt / 512 * 512 + k.dy.toInt / 512 * 512 / 4 else 0).bmod (2 ^ 32) := by
    cases offset
    · rfl
    · exact attrDiff_toInt _ _
  have hslope : (if copy then 0 else k.dx.sshiftRight 8 &&& ~~~1#32).toInt = if copy then 0 else k.dx.toInt / 256 / 2 * 2 := by
    cases copy
    · exact (clearLow_toInt _ 1 (by decide)).trans (by rw [sshiftRight_toInt]; rfl)
    · rfl
  have hfrac : ((x.extractLsb' 8 8).setWidth 32).toInt = x.toInt / 256 % 256 := by
    have hx := toInt_emod x
    rw [BitVec.toInt_eq_toNat_cond, BitVec.toNat_setWidth, BitVec.extractLsb'_toNat, Nat.shiftRight_eq_div_pow]
    split <;> omega
  unfold adjustAttr
  rw [floor1024_toInt, BitVec.toInt_sub, BitVec.toInt_add, BitVec.toInt_mul, floor512_toInt, add_ofInt_mul_toInt, hdiff, hslope,
    hfrac, bmod_floor _ (.inl rfl), Int.add_bmod_bmod, Int.bmod_add_bmod, Int.bmod_sub_bmod, Int.sub_bmod_bmod,
    bmod_floor _ (.inr rfl)]

/-! ### The entry of a scanline as integers -/

/-- `do_offset` (R180) by the sign of the major edge's slope. -/
theorem doOffset_eq (c : TriCmd) :
    (!(c.dxhdy.getLsbD 31 ^^ c.flip)) = decide (c.dxhdy.toInt < 0 ↔ c.flip = true) := by
  have hsign : c.dxhdy.getLsbD 31 = decide (c.dxhdy.toInt < 0) :=
    (BitVec.msb_eq_getLsbD_last c.dxhdy).symm.trans BitVec.msb_eq_toInt
  rw [hsign]
  by_cases h : c.dxhdy.toInt < 0 <;> cases c.flip <;> simp [h]

/-- The sub-scanline on which the attributes are adjusted (R180). -/
theorem walkSetup_ldflag (c : TriCmd) (s : State) :
    ((walkSetup c s).ldflag : Int) = if (c.dxhdy.toInt < 0 ↔ c.flip = true) then 3 else 0 := by
  have h := doOffset_eq c
  show (((if (c.dxhdy.getLsbD 31 ^^ c.flip) = true then 0 else 3 : Nat) : Nat) : Int) = _
  cases hx : (c.dxhdy.getLsbD 31 ^^ c.flip)
  · rw [hx] at h
    rw [if_pos (of_decide_eq_true h.symm)]
    rfl
  · rw [hx] at h
    rw [if_neg (of_decide_eq_false h.symm)]
    rfl

theorem adjustAttrs_walk (c : TriCmd) (s : State) (x : Word) (j : Int) :
    adjustAttrs (walkSetup c s) x (attrsAt c j) =
      (let f := adjustAttr (decide (c.dxhdy.toInt < 0 ↔ c.flip = true)) (decide (Om.cycleType s.gs.om = 2)) x
         (j - c.yh.toInt / 4)
       ⟨f (c.r.masked c.shade), f (c.g.masked c.shade), f (c.b.masked c.shade), f (c.a.masked c.shade),
        f (c.s.masked c.texture), f (c.t.masked c.texture), f (c.w.masked c.texture), f (c.z.masked c.zbuf)⟩) := by
  have hdiff : (walkSetup c s).dAdiff = if decide (c.dxhdy.toInt < 0 ↔ c.flip = true) = true then
      (c.attrs Coeff.de).zip attrDiff (c.attrs Coeff.dy) else zeroAttrs := by
    rw [← doOffset_eq]
    rfl
  have hdxh : (walkSetup c s).dAdxh = if decide (Om.cycleType s.gs.om = 2) = true then zeroAttrs
      else (c.attrs Coeff.dx).map (fun v => v.sshiftRight 8 &&& ~~~1#32) := by
    show (if (Om.cycleType s.gs.om != 2) = true then _ else _) = _
    simp only [bne_iff_ne, ne_eq, ite_not, decide_eq_true_eq]
  unfold adjustAttrs adjustAttr
  rw [hdiff, hdxh]
  cases decide (c.dxhdy.toInt < 0 ↔ c.flip = true) <;> cases decide (Om.cycleType s.gs.om = 2) <;> rfl

/-- The major edge where the attributes of scanline `j` are adjusted (R180). -/
def loadValue (c : TriCmd) (j : Int) : Int :=
  majorValue c (if (c.dxhdy.toInt < 0 ↔ c.flip = true) then 4 * j + 3 else 4 * j)

theorem rightAt_ldflag_toInt (c : TriCmd) (s : State) (j : Int) :
    (rightAt c (4 * j + (walkSetup c s).ldflag)).toInt = loadValue c j := by
  unfold loadValue
  rw [rightAt_toInt, walkSetup_ldflag, apply_ite (4 * j + ·), Int.add_zero]

/-- An attribute of scanline `j` at the integer x of the major edge (R186, R192). -/
def attrValue (c : TriCmd) (om : BitVec 64) (j : Int) (k : Coeff) : Int :=
  let de := k.de.toInt / 512 * 512
  let dy := k.dy.toInt / 512 * 512
  let diff := if (c.dxhdy.toInt < 0 ↔ c.flip = true) then de - de / 4 - dy + dy / 4 else 0
  let dxh := if Om.cycleType om = 2 then 0 else k.dx.toInt / 256 / 2 * 2
  (((k.base.toInt + (j - c.yh.toInt / 4) * k.de.toInt) / 512 * 512 + diff - loadValue c j / 256 % 256 * dxh) / 1024 * 1024).bmod
    (2 ^ 32)

/-- Each attribute of a finished scanline. -/
theorem Loaded.attrs_toInt {j : Int} {e : Span} (h : Loaded c (walkSetup c s) j e) :
    let value := attrValue c s.gs.om j
    e.attrs.r.toInt = value (c.r.masked c.shade) ∧ e.attrs.g.toInt = value (c.g.masked c.shade) ∧
    e.attrs.b.toInt = value (c.b.masked c.shade) ∧ e.attrs.a.toInt = value (c.a.masked c.shade) ∧
    e.attrs.s.toInt = value (c.s.masked c.texture) ∧ e.attrs.t.toInt = value (c.t.masked c.texture) ∧
    e.attrs.w.toInt = value (c.w.masked c.texture) ∧ e.attrs.z.toInt = value (c.z.masked c.zbuf) := by
  have hvalue : ∀ k : Coeff, (adjustAttr (decide (c.dxhdy.toInt < 0 ↔ c.flip = true)) (decide (Om.cycleType s.gs.om = 2))
      (rightAt c (4 * j + (walkSetup c s).ldflag)) (j - c.yh.toInt / 4) k).toInt = attrValue c s.gs.om j k := fun k => by
    rw [adjustAttr_toInt, rightAt_ldflag_toInt]
    simp only [decide_eq_true_eq]
    rfl
  rw [h.attrs, adjustAttrs_walk]
  exact ⟨hvalue _, hvalue _, hvalue _, hvalue _, hvalue _, hvalue _, hvalue _, hvalue _⟩

theorem Loaded.unscrx_toInt {j : Int} {e : Span} (h : Loaded c (walkSetup c s) j e) :
    e.unscrx.toInt = (loadValue c j / 0x10000).bmod 0x1000 := by
  rw [h.unscrx, extractLsb'_toInt _ (by decide), rightAt_ldflag_toInt]
  rfl

/-- The scissored crossing of an edge position (R182). -/
def clippedAt (clip : Clip) (x : Int) : EdgeCrossing := crossing (2 * clip.xh.toNat) (2 * clip.xl.toNat) (x % 2 ^ 28)

theorem majorAt_same (c : TriCmd) (s : State) (k : Int) :
    SameCrossing (majorAt c (walkSetup c s) k) (clippedAt s.gs.clip (majorValue c k)) := by
  rw [← rightAt_toInt]
  exact cross_sameCrossing _ _ _

theorem minorAt_same (c : TriCmd) (s : State) (k : Int) :
    SameCrossing (minorAt c (walkSetup c s) k) (clippedAt s.gs.clip (minorValue c k)) := by
  rw [← leftAt_toInt]
  exact cross_sameCrossing _ _ _

theorem SameCrossing.stored {x : Crossing} {y : EdgeCrossing} (h : SameCrossing x y) :
    ((x.xsc.setWidth 13).toNat : Int) = y.xsc % 0x2000 := by
  have := h.xsc
  rw [BitVec.toNat_setWidth]
  omega

theorem SameCrossing.pixel {x : Crossing} {y : EdgeCrossing} (h : SameCrossing x y) :
    (x.pixel.toNat : Int) = y.xsc / 8 % 0x1000 := by
  have hx := h.xsc
  have hmask : ((x.xsc >>> 3) &&& 0xFFF).toNat = (x.xsc >>> 3).toNat % 2 ^ 12 := Nat.and_two_pow_sub_one_eq_mod _ 12
  unfold Crossing.pixel
  rw [BitVec.toNat_setWidth, hmask, BitVec.toNat_ushiftRight, Nat.shiftRight_eq_div_pow]
  omega

/-- `KEY` of an edge position (R184). -/
def keyValue (x : Int) : Int := (x + 2 ^ 27) % 2 ^ 28 / 2 ^ 14

/-- Whether sub-scanline `k` is invalid (R180, R184), on integers. -/
def InvalidLine (c : TriCmd) (clip : Clip) (k : Int) : Prop :=
  k < yHighLimit c.yh clip.yh ∨ yLowLimit c.yl clip.yl ≤ k ∨
    (if c.flip then keyValue (minorValue c k) < keyValue (majorValue c k)
     else keyValue (majorValue c k) < keyValue (minorValue c k))

theorem invalidAt_iff (c : TriCmd) (s : State) (k : Int) :
    invalidAt c (walkSetup c s) k = true ↔ InvalidLine c s.gs.clip k := by
  have hkey : ∀ v w : Word, edgeKey v < edgeKey w ↔ keyValue v.toInt < keyValue w.toInt := edgeKey_lt_iff
  unfold invalidAt invalidBetween InvalidLine
  rw [Bool.or_eq_true, Bool.or_eq_true, decide_eq_true_eq, decide_eq_true_eq, or_assoc, ← rightAt_toInt, ← leftAt_toInt,
    ← hkey, ← hkey]
  show _ ∨ _ ∨ (if c.flip = true then _ else _) = true ↔ _
  cases c.flip <;> simp [walkSetup]

theorem invalidAt_eq_false_iff (c : TriCmd) (s : State) (k : Int) :
    invalidAt c (walkSetup c s) k = false ↔ ¬ InvalidLine c s.gs.clip k := by
  rw [← invalidAt_iff, Bool.not_eq_true]

/-- The largest of the valid values, 0 when there is none. -/
theorem IsExtreme.largest {P : Fin 4 → Prop} {x : Fin 4 → BitVec 12} {v : BitVec 12} (h : IsExtreme true P x v)
    {Q : Fin 4 → Prop} {f : Fin 4 → Int} (hQ : ∀ n, P n ↔ Q n) (hf : ∀ n, ((x n).toNat : Int) = f n) :
    (∀ n, Q n → f n ≤ v.toNat) ∧ (v = 0 ∨ ∃ n, Q n ∧ f n = v.toNat) := by
  obtain ⟨hb, ha⟩ := h
  refine ⟨fun n hn => ?_, ha.imp_right fun ⟨n, hn, hx⟩ => ⟨n, (hQ n).1 hn, by rw [← hf, hx]⟩⟩
  rw [← hf]
  exact Int.ofNat_le.2 (hb n ((hQ n).2 hn))

/-- The smallest of the valid values, 0xFFF when there is none. -/
theorem IsExtreme.smallest {P : Fin 4 → Prop} {x : Fin 4 → BitVec 12} {v : BitVec 12} (h : IsExtreme false P x v)
    {Q : Fin 4 → Prop} {f : Fin 4 → Int} (hQ : ∀ n, P n ↔ Q n) (hf : ∀ n, ((x n).toNat : Int) = f n) :
    (∀ n, Q n → (v.toNat : Int) ≤ f n) ∧ (v = 0xFFF ∨ ∃ n, Q n ∧ f n = v.toNat) := by
  obtain ⟨hb, ha⟩ := h
  refine ⟨fun n hn => ?_, ha.imp_right fun ⟨n, hn, hx⟩ => ⟨n, (hQ n).1 hn, by rw [← hf, hx]⟩⟩
  rw [← hf]
  exact Int.ofNat_le.2 (hb n ((hQ n).2 hn))

/-! ### The obligation on the span buffer -/

/-- The entry that the walk clears past its last scanline (R180). -/
theorem walkSetup_clearNext (c : TriCmd) (s : State) : (walkSetup c s).clearNext = true ↔
    lastLine c s = yLowLimit c.yl s.gs.clip.yl / 4 ∧ 0 ≤ yLowLimit c.yl s.gs.clip.yl / 4 ∧
      yLowLimit c.yl s.gs.clip.yl / 4 < 1023 := by
  show (!decide ((quarterFloor (yLowLimit c.yl s.gs.clip.yl) + 3) / 4 < c.yl.toInt / 4) &&
    decide (0 ≤ yLowLimit c.yl s.gs.clip.yl / 4) && decide (yLowLimit c.yl s.gs.clip.yl / 4 < 1023)) = true ↔ _
  rw [Bool.and_eq_true, Bool.and_eq_true, ← decide_not, decide_eq_true_eq, decide_eq_true_eq, decide_eq_true_eq, and_assoc]
  unfold lastLine quarterFloor
  simp only
  split <;> omega

/-- An entry outside the scanlines of the walk: as before, or cleared. -/
theorem edgewalk_spanAt_outside {j : Int} (hj : ¬ (yHighLimit c.yh s.gs.clip.yh / 4 ≤ j ∧ j ≤ lastLine c s)) :
    (s.edgewalk c).spanAt j =
      if (walkSetup c s).clearNext = true ∧ j = yLowLimit c.yl s.gs.clip.yl / 4 + 1 then
        { s.spanAt j with validline := false } else s.spanAt j := by
  rw [State.edgewalk_spanAt_other hj, walkStart_spanAt]
  show (if _ ∧ j = yLowLimit c.yl s.gs.clip.yl / 4 + 1 ∧ _ then _ else _) = _
  refine if_congr ⟨fun ⟨h1, h2, _⟩ => ⟨h1, h2⟩, fun ⟨h1, h2⟩ => ⟨h1, h2, ?_⟩⟩ rfl rfl
  obtain ⟨-, h3, h4⟩ := (walkSetup_clearNext c s).1 h1
  have : (Config.maxScanlines : Int) = 1024 := rfl
  omega

/-- Below the last scanline of the scissor and the record nothing is valid. -/
theorem edgewalk_validline_after (hlo : 0 ≤ yLowLimit c.yl s.gs.clip.yl / 4) (hmax : yLowLimit c.yl s.gs.clip.yl / 4 < 1023)
    (hhi : yHighLimit c.yh s.gs.clip.yh / 4 ≤ yLowLimit c.yl s.gs.clip.yl / 4 + 1) :
    ((s.edgewalk c).spanAt (yLowLimit c.yl s.gs.clip.yl / 4 + 1)).validline = false := by
  have hlast : lastLine c s = yLowLimit c.yl s.gs.clip.yl / 4 ∨ lastLine c s = yLowLimit c.yl s.gs.clip.yl / 4 + 1 := by
    unfold lastLine
    simp only
    split <;> omega
  rcases hlast with hlast | hlast
  · rw [edgewalk_spanAt_outside (by omega), if_pos ⟨(walkSetup_clearNext c s).2 ⟨hlast, hlo, hmax⟩, rfl⟩]
  · have hmaxLines : (Config.maxScanlines : Int) = 1024 := rfl
    have hline := State.edgewalk_line (c := c) (s := s) (j := yLowLimit c.yl s.gs.clip.yl / 4 + 1) hhi (by omega) (by omega)
    by_contra hvalid
    obtain ⟨hsome, -⟩ := hline.validline.1 (by simpa using hvalid)
    exact hsome fun m => (invalidAt_iff c s _).2 (.inr (.inl (by omega)))

/-- Settles O24: `LineDone` says what the walk leaves in each entry, and the integer forms of its parts are the statement's. -/
theorem edgewalkStoresOnlyItsScanlines : Obligations.EdgewalkStoresOnlyItsScanlines := by
  unfold Obligations.EdgewalkStoresOnlyItsScanlines
  intro s t c h clip hi lo last
  cases h
  refine ⟨rfl, fun j hj hnext => ?_, fun h0 hmax hlast => ?_, edgewalk_validline_after, fun j hfirst hlast h0 hmax => ?_⟩
  · refine (edgewalk_spanAt_outside hj).trans (if_neg fun ⟨hclear, hj'⟩ => hnext ?_)
    obtain ⟨h1, h2, -⟩ := (walkSetup_clearNext c s).1 hclear
    exact ⟨h1, h2, hj'⟩
  · refine (edgewalk_spanAt_outside fun hvisited => ?_).trans
      (if_pos ⟨(walkSetup_clearNext c s).2 ⟨hlast, h0, hmax⟩, rfl⟩)
    have : lo + 1 ≤ last := hvisited.2
    omega
  · have hmajor := fun n : Fin 4 => majorAt_same c s (4 * j + n.val)
    have hminor := fun n : Fin 4 => minorAt_same c s (4 * j + n.val)
    have hinvalid := fun n : Fin 4 => invalidAt_iff c s (4 * j + n.val)
    have hvalid := fun n : Fin 4 => invalidAt_eq_false_iff c s (4 * j + n.val)
    obtain ⟨hmajorx, hminorx, hinval, hloaded, hlx, hrx, hvalidline⟩ :=
      State.edgewalk_line (c := c) (s := s) hfirst hlast ⟨h0, hmax⟩
    obtain ⟨hr, hg, hb, ha, hs, ht, hw, hz⟩ := hloaded.attrs_toInt
    intro e first ym edge right left cross key inval quarter sign major latched shade texture depth largest smallest
    refine ⟨fun n => ⟨?_, ?_, ?_⟩, hloaded.unscrx_toInt, hr, hg, hb, ha, hs, ht, hw, hz, fun hflip => ?_,
      fun hflip => ?_, ?_⟩
    · exact (congrArg (fun x : BitVec 13 => (x.toNat : Int)) (hmajorx n)).trans (hmajor n).stored
    · exact (congrArg (fun x : BitVec 13 => (x.toNat : Int)) (hminorx n)).trans (hminor n).stored
    · exact (hinval n) ▸ hinvalid n
    · have hp : (walkSetup c s).flip = true := hflip
      rw [hp] at hlx hrx
      exact ⟨hlx.largest hvalid fun n => (hminor n).pixel, hrx.smallest hvalid fun n => (hmajor n).pixel⟩
    · have hp : (walkSetup c s).flip = false := hflip
      rw [hp] at hlx hrx
      exact ⟨hlx.smallest hvalid fun n => (hminor n).pixel, hrx.largest hvalid fun n => (hmajor n).pixel⟩
    · refine hvalidline.trans ?_
      simp only [not_forall, hinvalid, fun n => (hmajor n).isOver, fun n => (hminor n).isOver, fun n => (hmajor n).isUnder,
        fun n => (hminor n).isUnder]
      rfl

end Sys2Proof.Machine
end

/-! ## The span renderer family: what the renderers store and what their steps write (`41_span_renderers.md`)

`RGBAZ_CORRECT` and the texture steps are given by their integer forms and by what each variant writes. That a renderer stores
only in its spans is its `Stage`; what a pixel holds after a fill or a copy is what its own turn in the loops leaves
(`forUpE_at`), because the pixels of a span lie apart (`fbBytes_disjoint`, `pixelUnit_inj`). -/

section

namespace Sys2Proof.Machine

variable {W : Nat → Prop} {s t m : State} {o : TexOperands}

/-! ### Gradient correction (R226) -/

/-- `clamp9` of an integer cut to nine bits (R352). -/
theorem clamp9_ofInt (v : Int) : ((clamp9 (BitVec.ofInt 9 v)).toNat : Int) = clamped9 v := by
  have hcode : ((BitVec.ofInt 9 v).toNat : Int) = v % 512 := BitVec.toNat_ofInt v ▸ Int.toNat_of_nonneg (by omega)
  unfold clamp9 clamped9
  generalize BitVec.ofInt 9 v = c at hcode
  have hlt := c.isLt
  split
  · rw [BitVec.toNat_setWidth, if_pos (by omega)]; omega
  · rw [BitVec.toNat_setWidth, if_pos (by omega)]; omega
  · rw [if_neg (by omega), if_pos (by omega)]; rfl
  · next h0 h1 h2 =>
    simp only [imp_false] at h0 h1 h2
    rw [if_neg (by omega), if_neg (by omega)]; rfl

/-- A right shift is a division, rounded down, whether its count is read as a natural number or as an integer. -/
theorem shiftRight_eq_ediv (v : Int) (n : Nat) : v >>> n = v / 2 ^ n ∧ v >>> (n : Int) = v / 2 ^ n := by
  rw [Int.shiftRight_natCast_right, Int.shiftRight_eq_div_pow]
  push_cast
  exact ⟨rfl, rfl⟩

/-- The shifts of R226. -/
theorem correctShifts (v : Int) : (v >>> (2 : Nat) = v / 4 ∧ v >>> (2 : Int) = v / 4) ∧
    (v >>> (3 : Nat) = v / 8 ∧ v >>> (3 : Int) = v / 8) ∧ (v >>> (4 : Nat) = v / 16 ∧ v >>> (4 : Int) = v / 16) ∧
    (v >>> (5 : Nat) = v / 32 ∧ v >>> (5 : Int) = v / 32) ∧
    (v >>> (17 : Nat) = v / 0x20000 ∧ v >>> (17 : Int) = v / 0x20000) :=
  ⟨shiftRight_eq_ediv v 2, shiftRight_eq_ediv v 3, shiftRight_eq_ediv v 4, shiftRight_eq_ediv v 5, shiftRight_eq_ediv v 17⟩

theorem correctChannel_toNat (full : Bool) (offx offy : BitVec 2) (v : BitVec 18) (dx dy : BitVec 13) :
    ((correctChannel full offx offy v dx dy).toNat : Int) =
      clamped9 (if full then v.toInt / 4 else (4 * v.toInt + offx.toNat * dx.toInt + offy.toNat * dy.toInt) / 16) := by
  unfold correctChannel
  rw [clamp9_ofInt, Int.mul_comm v.toInt 4]
  simp only [correctShifts]

/-- The depth before it is saturated, as an integer. -/
def correctedDepth (full : Bool) (offx offy : BitVec 2) (sz cdz dzdy : BitVec 22) : Int :=
  if full then sz.toNat / 8 else (4 * sz.toNat + offx.toNat * cdz.toInt + offy.toNat * dzdy.toInt) / 32

theorem correctDepth_toNat (full : Bool) (offx offy : BitVec 2) (sz cdz dzdy : BitVec 22) :
    let cz := correctedDepth full offx offy sz cdz dzdy
    ((correctDepth full offx offy sz cdz dzdy).toNat : Int) =
      if cz / 0x20000 % 4 < 2 then cz % 0x40000 else if cz / 0x20000 % 4 = 2 then 0x3FFFF else 0 := by
  intro cz
  have hin : ((BitVec.ofInt 18 cz).toNat : Int) = cz % 0x40000 := BitVec.toNat_ofInt cz ▸ Int.toNat_of_nonneg (by omega)
  have harm : correctDepth full offx offy sz cdz dzdy = match (cz / 0x20000 % 4).toNat with
      | 0 => BitVec.ofInt 18 cz
      | 1 => BitVec.ofInt 18 cz
      | 2 => 0x3FFFF
      | _ => 0 := by
    unfold correctDepth
    rw [Int.mul_comm (sz.toNat : Int) 4]
    simp only [correctShifts]
    rfl
  rw [harm]
  split
  · rw [if_pos (by omega), hin]
  · rw [if_pos (by omega), hin]
  · rw [if_neg (by omega), if_pos (by omega)]; rfl
  · next h0 h1 h2 =>
    simp only [imp_false] at h0 h1 h2
    rw [if_neg (by omega), if_neg (by omega)]; rfl

/-- Settles O29: the shade by `correctChannel_toNat` channel by channel, the depth by `correctDepth_toNat`. -/
theorem gradientCorrection : Obligations.GradientCorrection := by
  unfold Obligations.GradientCorrection
  intro s o
  refine ⟨s.correctShade o, _, exec_rgbazCorrect rfl, ?_⟩
  have hshade := fun v dx dy => correctChannel_toNat (decide (o.cvg = 8)) o.offx o.offy v dx dy
  have hdepth := correctDepth_toNat (decide (o.cvg = 8)) o.offx o.offy o.sz o.cdz o.dzdy
  unfold correctedDepth at hdepth
  simp only [decide_eq_true_eq] at hshade hdepth
  exact ⟨hshade _ _ _, hshade _ _ _, hshade _ _ _, hshade _ _ _, hdepth⟩

/-! ### Where the renderers store (R212, R214, R428, R491) -/

theorem Stage.sameRamOutside (h : Stage W s t) : SameRamOutside W (fun u => W (2 * u + 1)) s t := ⟨h.ram, h.hidden⟩

/-- A crash stores nothing (R572). -/
theorem raiseCrash_sameRamOutside (W : Nat → Prop) (s : State) :
    SameRamOutside W (fun u => W (2 * u + 1)) s s.raiseCrash := ⟨fun _ _ => rfl, fun _ _ => rfl⟩

/-- Settles O26: a renderer that answers is a stage over the bytes of its spans, or crashed. -/
theorem renderersStoreOnlyInTheirSpans : Obligations.RenderersStoreOnlyInTheirSpans := by
  unfold Obligations.RenderersStoreOnlyInTheirSpans
  intro s t start stop tilenum flip drawn onlyIn
  refine ⟨fun i hi h => ?_, fun h => ?_, fun h => ?_⟩
  · obtain rfl | rfl := hi
    · exact (Stage.render1cycle (ofExcept_next h)).sameRamOutside
    · exact (Stage.render2cycle (ofExcept_next h)).sameRamOutside
  · obtain ⟨-, rfl⟩ | ⟨-, hstage⟩ := renderCopy_cases (ofExcept_next h)
    · exact raiseCrash_sameRamOutside _ s
    · exact hstage.sameRamOutside
  · cases h
    cases hcfg : crashConfig 3 s with
    | true =>
      show SameRamOutside _ _ s (s.renderFill start stop flip)
      rw [renderFill_of_crash start stop flip hcfg]
      exact raiseCrash_sameRamOutside _ s
    | false => exact (Stage.renderFill start stop flip hcfg).sameRamOutside

/-! ### The texture steps (R216, R218, R234) -/

/-- A texel step that answers fetched a texel and wrote it. -/
theorem texelStep_ok {x : Except Refusal (Color 9)} {write : Color 9 → State}
    (h : (andThen x fun c => .ok (write c)) = .ok t) : ∃ c, t = write c := by
  obtain ⟨c, -, hc⟩ := andThen_ok.1 h
  exact ⟨c, (Except.ok.inj hc).symm⟩

/-- What a 1-cycle texture step writes by its variant: `gs.lod_frac` and `gs.texel0`, then `gs.texel1` (R218). -/
def State.writeTexels1 (m : State) (f : BitVec 9) (c c' : Color 9) : State :=
  let m₀ := if m.gs.der.cycle1Mode = 0 then m else (m.setLodFrac f).setTexel0 c
  if m.gs.der.cycle1Mode = 2 then m₀.setTexel1 c' else m₀

/-- What a 2-cycle texture step writes by its variant: `gs.lod_frac` and `gs.texel0`, `gs.texel1`, `gs.nexttexel` (R234). -/
def State.writeTexels2 (m : State) (f : BitVec 9) (c c' c'' : Color 9) : State :=
  let m₀ := if m.gs.der.cycle2Mode = 0 then m else (m.setLodFrac f).setTexel0 c
  let m₁ := if 2 ≤ m.gs.der.cycle2Mode.toNat then m₀.setTexel1 c' else m₀
  if m.gs.der.cycle2Mode = 3 then m₁.setNexttexel c'' else m₁

/-- The first step of either mode, which the variant NOTEX leaves out. -/
theorem firstTexel_ok {notex : Prop} [Decidable notex] {f : BitVec 9} {x : Except Refusal (Color 9)}
    (h : (if notex then .ok m else andThen x fun c => .ok ((m.setLodFrac f).setTexel0 c)) = .ok t) :
    ∃ c, t = if notex then m else (m.setLodFrac f).setTexel0 c := by
  split at h
  · next hno => exact ⟨zeroColor 9, by rw [if_pos hno]; exact (Except.ok.inj h).symm⟩
  · next hno => simpa only [if_neg hno] using texelStep_ok h

/-- A later step, which only some variants take. -/
theorem laterTexel_ok {taken : Prop} [Decidable taken] {x : Except Refusal (Color 9)} {write : Color 9 → State}
    (h : (if taken then andThen x fun c => .ok (write c) else .ok m) = .ok t) :
    ∃ c, t = if taken then write c else m := by
  split at h
  · next htaken => simpa only [if_pos htaken] using texelStep_ok h
  · next hno => exact ⟨zeroColor 9, by rw [if_neg hno]; exact (Except.ok.inj h).symm⟩

theorem texture1cycle_writes (h : m.texture1cycle o = .ok t) : ∃ f c c', t = m.writeTexels1 f c c' := by
  obtain ⟨m₀, h0, h1⟩ := andThen_ok.1 h
  obtain ⟨c, hm₀⟩ := firstTexel_ok h0
  obtain ⟨c', ht⟩ := laterTexel_ok h1
  have hder : m₀.gs.der = m.gs.der := by rw [hm₀]; split <;> rfl
  rw [hder, hm₀] at ht
  exact ⟨_, c, c', ht⟩

theorem texture2cycle_writes (h : m.texture2cycle o = .ok t) : ∃ f c c' c'', t = m.writeTexels2 f c c' c'' := by
  obtain ⟨m₀, h0, h⟩ := andThen_ok.1 h
  obtain ⟨m₁, h1, h2⟩ := andThen_ok.1 h
  obtain ⟨c, hm₀⟩ := firstTexel_ok h0
  obtain ⟨c', hm₁⟩ := laterTexel_ok h1
  obtain ⟨c'', ht⟩ := laterTexel_ok h2
  have hder : m₀.gs.der = m.gs.der := by rw [hm₀]; split <;> rfl
  have hder' : m₁.gs.der = m₀.gs.der := by rw [hm₁]; split <;> rfl
  rw [hder', hder, hm₁, hder, hm₀] at ht
  exact ⟨_, c, c', c'', ht⟩

/-- `TEXTURE_1CYCLE` writes only what its variant names (R216, R218). -/
theorem texture1cycle_frame (h : m.texture1cycle o = .ok t) :
    t = { m with gs.col.texel0 := t.gs.col.texel0, gs.col.texel1 := t.gs.col.texel1, gs.sca.lodFrac := t.gs.sca.lodFrac } ∧
    (m.gs.der.cycle1Mode = 0 → t.gs.col.texel0 = m.gs.col.texel0 ∧ t.gs.sca.lodFrac = m.gs.sca.lodFrac) ∧
    (m.gs.der.cycle1Mode ≠ 2 → t.gs.col.texel1 = m.gs.col.texel1) := by
  obtain ⟨f, c, c', rfl⟩ := texture1cycle_writes h
  unfold State.writeTexels1
  rcases size_cases m.gs.der.cycle1Mode with hmode | hmode | hmode | hmode <;> rw [hmode]
  · exact ⟨rfl, fun _ => ⟨rfl, rfl⟩, fun _ => rfl⟩
  · exact ⟨rfl, (absurd · (by decide)), fun _ => rfl⟩
  · exact ⟨rfl, (absurd · (by decide)), (absurd rfl ·)⟩
  · exact ⟨rfl, (absurd · (by decide)), fun _ => rfl⟩

/-- `TEXTURE_2CYCLE` writes only what its variant names (R234). -/
theorem texture2cycle_frame (h : m.texture2cycle o = .ok t) :
    t = { m with gs.col.texel0 := t.gs.col.texel0, gs.col.texel1 := t.gs.col.texel1, gs.col.nexttexel := t.gs.col.nexttexel
                 gs.sca.lodFrac := t.gs.sca.lodFrac } ∧
    (m.gs.der.cycle2Mode = 0 → t = m) ∧
    (m.gs.der.cycle2Mode = 1 → t.gs.col.texel1 = m.gs.col.texel1) ∧
    (m.gs.der.cycle2Mode ≠ 3 → t.gs.col.nexttexel = m.gs.col.nexttexel) := by
  obtain ⟨f, c, c', c'', rfl⟩ := texture2cycle_writes h
  unfold State.writeTexels2
  rcases size_cases m.gs.der.cycle2Mode with hmode | hmode | hmode | hmode <;> rw [hmode]
  · exact ⟨rfl, fun _ => rfl, fun _ => rfl, fun _ => rfl⟩
  · exact ⟨rfl, (absurd · (by decide)), fun _ => rfl, fun _ => rfl⟩
  · exact ⟨rfl, (absurd · (by decide)), (absurd · (by decide)), fun _ => rfl⟩
  · exact ⟨rfl, (absurd · (by decide)), (absurd · (by decide)), (absurd rfl ·)⟩

/-- `NEXT_COORDS_1CYCLE` at the end of a long span: the start of a valid next scanline (R220). -/
theorem nextCoords1cycle_nextLine (hj : o.j = o.length) (hlen : 7 < o.length.toNat)
    (hv : (m.spanAt (o.i.toNat + 1)).validline = true) :
    m.nextCoords1cycle o = ⟨(m.spanAt (o.i.toNat + 1)).attrs.s, (m.spanAt (o.i.toNat + 1)).attrs.t,
      (m.spanAt (o.i.toNat + 1)).attrs.w⟩ := if_pos ⟨hj, hlen, hv⟩

/-- Otherwise it gives the next pixel (R220). -/
theorem nextCoords1cycle_nextPixel
    (h : o.j ≠ o.length ∨ o.length.toNat ≤ 7 ∨ (m.spanAt (o.i.toNat + 1)).validline = false) :
    m.nextCoords1cycle o = nextPixel o := by
  refine if_neg fun ⟨hj, hlen, hv⟩ => ?_
  obtain hne | hle | hinv := h
  · exact hne hj
  · omega
  · rw [hv] at hinv
    cases hinv

/-- Settles O34: `TilesFetchable` gives the completion, the frames say what each variant writes. -/
theorem textureStepsComplete : Obligations.TextureStepsComplete := by
  unfold Obligations.TextureStepsComplete
  refine ⟨fun m o prev sss sst n cycle htiles => ⟨?_, ?_, ?_⟩,
    fun m o => ⟨_, _, _, rfl, fun hj hlen hv => ?_, fun h => ?_⟩⟩
  · obtain ⟨c, hc⟩ := htiles.texCycle prev sss sst n cycle
    exact ⟨c, congrArg (retOf m .texel) hc⟩
  · obtain ⟨t, ht⟩ := htiles.texture1cycle o
    exact ⟨t, congrArg ofExcept ht, texture1cycle_frame ht⟩
  · obtain ⟨t, ht⟩ := htiles.texture2cycle o
    exact ⟨t, congrArg ofExcept ht, texture2cycle_frame ht⟩
  · rw [nextCoords1cycle_nextLine hj hlen hv]
    simp only [and_self]
  · rw [nextCoords1cycle_nextPixel h]
    simp [nextPixel, BitVec.toInt_add]

end Sys2Proof.Machine

end

section

namespace Sys2Proof.Machine

variable {s t m m' : State} {flip : Bool} {i j k : Int}

/-! ### Loops, by one of their indices and by a map -/

/-- A loop turns `I` into `J` at the index `k`, keeping `I` before it and `J` after it. -/
theorem forUpE_at {σ : Type} {body : Int → σ → Except Refusal σ} {n : Nat} {lo k : Int} {x y : σ}
    (I J : Int → σ → Prop) (hlo : lo ≤ k) (hhi : k < lo + n)
    (before : ∀ i x y, lo ≤ i → i < k → I i x → body i x = .ok y → I (i + 1) y)
    (own : ∀ x y, I k x → body k x = .ok y → J (k + 1) y)
    (after : ∀ i x y, k < i → i < lo + n → J i x → body i x = .ok y → J (i + 1) y) (h : I lo x)
    (hy : forUpE body n lo x = .ok y) : J (lo + n) y := by
  have key := forUpE_inv (fun i x => (i ≤ k → I i x) ∧ (k < i → J i x)) n lo x y (fun i x y h1 h2 hx hy => ?_)
    ⟨fun _ => h, fun hk => by omega⟩ hy
  · exact key.2 hhi
  · obtain hlt | rfl | hgt := Int.lt_trichotomy i k
    · exact ⟨fun _ => before i x y h1 hlt (hx.1 hlt.le) hy, fun hk => by omega⟩
    · exact ⟨fun hk => by omega, fun _ => own x y (hx.1 le_rfl) hy⟩
    · exact ⟨fun hk => by omega, fun _ => after i x y hgt h2 (hx.2 hgt) hy⟩

/-- A loop whose body cannot refuse is one whose body never does. -/
theorem forUpE_pure {σ : Type} (body : Int → σ → σ) (n : Nat) (lo : Int) (x : σ) :
    forUpE (fun i x => .ok (body i x)) n lo x = .ok (forUp body n lo x) := by
  induction n generalizing lo x with
  | zero => rfl
  | succ n ih => exact ih (lo + 1) (body lo x)

/-- A loop commutes with a map that its body commutes with. -/
theorem forUp_hom {σ τ : Type} {f : σ → τ} {b : Int → σ → σ} {b' : Int → τ → τ} (h : ∀ i x, b' i (f x) = f (b i x))
    (n : Nat) (lo : Int) (x : σ) : forUp b' n lo (f x) = f (forUp b n lo x) := by
  induction n generalizing lo x with
  | zero => rfl
  | succ n ih =>
    simp only [forUp, h]
    exact ih (lo + 1) (b lo x)

/-! ### The pixels of a span lie apart (R212, R491) -/

theorem pixelX_toNat (h : inSpan s flip i j) : ((pixelX s flip i j).toNat : Int) =
    if flip then (s.spanAt i).rx.toNat + j else (s.spanAt i).rx.toNat - j := by
  obtain ⟨-, h0, hlen⟩ := h
  obtain ⟨n, rfl⟩ := Int.eq_ofNat_of_zero_le h0
  have hlx := (s.spanAt i).lx.isLt
  have hrx := (s.spanAt i).rx.isLt
  unfold spanLength at hlen
  unfold pixelX xStep
  rw [BitVec.ofInt_natCast]
  cases flip with
  | true =>
    simp only [if_true] at hlen ⊢
    have hone : (1 : Word).setWidth 12 = 1#12 := by decide
    rw [hone, BitVec.one_mul]
    bv_omega
  | false =>
    simp only [Bool.false_eq_true, if_false] at hlen ⊢
    have hneg : (-1 : Word).setWidth 12 = -1#12 := by decide
    rw [hneg, BitVec.neg_mul, BitVec.one_mul]
    bv_omega

theorem pixelX_inj (hj : inSpan s flip i j) (hk : inSpan s flip i k) (h : pixelX s flip i j = pixelX s flip i k) : j = k := by
  have hx := pixelX_toNat hj
  rw [h, pixelX_toNat hk] at hx
  cases flip with
  | true => simp only [if_true] at hx; omega
  | false => simp only [Bool.false_eq_true, if_false] at hx; omega

/-- Two positions of a line stay apart modulo any power of two that the twelve bits of a position fit in, whether the sum
wraps at 2^32 or not. -/
theorem add_position_mod_inj (w : Word) {x y : BitVec 12} {e : Nat} (he : 12 ≤ e)
    (h : (w + x.setWidth 32).toNat % 2 ^ e = (w + y.setWidth 32).toNat % 2 ^ e) : x = y := by
  have hlow : ∀ n : Nat, n % 2 ^ 32 % 2 ^ e % 2 ^ 12 = n % 2 ^ 12 := fun n => by
    rw [Nat.mod_mod_of_dvd _ (Nat.pow_dvd_pow 2 he), Nat.mod_mod_of_dvd _ (Nat.pow_dvd_pow 2 (by decide))]
  have hmod := congrArg (· % 2 ^ 12) h
  simp only [BitVec.toNat_add, hlow, BitVec.toNat_setWidth_of_le (show 12 ≤ 32 by decide)] at hmod
  have hx := x.isLt
  have hy := y.isLt
  exact BitVec.eq_of_toNat_eq (by omega)

theorem State.ramBytes_div (s : State) : s.ramBytes / 2 = 2 ^ (15 + s.ramExtra) ∧ s.ramBytes / 4 = 2 ^ (14 + s.ramExtra) := by
  have h := s.ramBytes_eq
  rw [Nat.pow_add, Nat.pow_add]
  omega

theorem mask8_pixel_inj (w : Word) {x y : BitVec 12} (h : s.mask8 (w + x.setWidth 32) = s.mask8 (w + y.setWidth 32)) : x = y :=
  add_position_mod_inj w (e := 16 + s.ramExtra) (by omega) h

theorem mask16_pixel_inj (w : Word) {x y : BitVec 12} (h : s.mask16 (w + x.setWidth 32) = s.mask16 (w + y.setWidth 32)) :
    x = y := by
  unfold State.mask16 at h
  rw [s.ramBytes_div.1] at h
  exact add_position_mod_inj w (by omega) h

theorem mask32_pixel_inj (w : Word) {x y : BitVec 12} (h : s.mask32 (w + x.setWidth 32) = s.mask32 (w + y.setWidth 32)) :
    x = y := by
  unfold State.mask32 at h
  rw [s.ramBytes_div.2] at h
  exact add_position_mod_inj w (by omega) h

/-- No byte of the colour image belongs to two pixels of a span. -/
theorem fbBytes_disjoint {a : Nat} (hj : inSpan s flip i j) (hk : inSpan s flip i k)
    (ha : fbBytes s (pixelIndexAt s flip i j) a) (hb : fbBytes s (pixelIndexAt s flip i k) a) : j = k := by
  refine pixelX_inj hj hk ?_
  unfold fbBytes at ha hb
  unfold pixelIndexAt State.fbIndex8 State.fbIndex16 State.fbIndex32 at ha hb
  simp only [← BitVec.add_assoc] at ha hb
  split at ha <;> simp only [*] at hb
  · exact mask8_pixel_inj _ hb
  · exact mask8_pixel_inj _ hb
  · exact mask16_pixel_inj _ hb
  · exact mask32_pixel_inj _ hb

/-! ### What a fill leaves in a pixel (R510) -/

theorem FillFrame.masks (h : FillFrame s m) (p : Word) : m.mask8 (m.fbIndex8 p) = s.mask8 (s.fbIndex8 p) ∧
    m.mask16 (m.fbIndex16 p) = s.mask16 (s.fbIndex16 p) ∧ m.mask32 (m.fbIndex32 p) = s.mask32 (s.fbIndex32 p) := by
  rw [h]
  exact ⟨rfl, rfl, rfl⟩

theorem State.pairWr8_ramByte (s : State) (i : Word) (v : Byte) (h : BitVec 2) (b : Nat) :
    (s.pairWr8 i v h).ramByte b = if b = s.mask8 i then v else s.ramByte b := by
  obtain ⟨-, hram, -⟩ := s.pairWr8_frame i v h
  exact hram b

/-- A byte after a fill depends on the byte before and on the control registers only. -/
theorem FillFrame.fbFill_ramByte (h : FillFrame s m) (p : Word) {a : Nat} (ha : m.ramByte a = s.ramByte a) :
    (m.fbFill p).ramByte a = (s.fbFill p).ramByte a := by
  have himg : m.gs.img = s.gs.img := (congrArg (fun x : State => x.gs.img) h :)
  have hmisc : m.gs.misc = s.gs.misc := (congrArg (fun x : State => x.gs.misc) h :)
  obtain ⟨h8, h16, h32⟩ := h.masks p
  unfold State.fbFill
  rw [himg]
  split
  · exact ha
  · unfold State.fbFill8
    rw [State.pairWr8_ramByte, State.pairWr8_ramByte, h8, hmisc, ha]
  · unfold State.fbFill16 State.pairWr16
    rw [State.hidWr_ramByte, State.hidWr_ramByte, State.wr16_ramByte, State.wr16_ramByte, h16, hmisc, ha]
  · unfold State.fbFill32 State.pairWr32
    simp only [State.hidWr_ramByte]
    rw [State.wr32_ramByte, State.wr32_ramByte, h32, hmisc, ha]

/-- A fill changes only the bytes of its pixel. -/
theorem State.fbFill_ramByte_other (s : State) (p : Word) {a : Nat} (ha : ¬ fbBytes s p a) :
    (s.fbFill p).ramByte a = s.ramByte a := (Stage.fbFill (W := fbBytes s p) p fun _ => id).ram a ha

theorem State.fbFill_rd8 (s : State) (p : Word) (hsize : s.gs.img.fbSize = 1) :
    ((s.fbFill p).rd8 (s.fbIndex8 p)).toNat = s.gs.misc.fillColor.toNat / 0x1000000 := by
  have hread : (s.fbFill p).rd8 (s.fbIndex8 p) = s.gs.misc.fillColor.extractLsb' 24 8 := by
    unfold State.fbFill
    rw [hsize]
    exact s.pairWr8_rd8 _ _ _
  have := s.gs.misc.fillColor.isLt
  rw [hread, BitVec.extractLsb'_toNat, Nat.shiftRight_eq_div_pow]
  omega

theorem fill16_toNat (c : BitVec 32) : (fill16 c).toNat =
    c.toNat / 0x8000000 * 2048 + c.toNat / 0x80000 % 32 * 64 + c.toNat / 0x800 % 32 * 2 + c.toNat / 0x80 % 2 := by
  unfold fill16
  simp only [toNat_append_eq_add, BitVec.extractLsb'_toNat, Nat.shiftRight_eq_div_pow]
  have := c.isLt
  omega

theorem State.fbFill_rd16 (s : State) (p : Word) (hsize : s.gs.img.fbSize = 2) :
    (s.fbFill p).rd16 (s.fbIndex16 p) = fill16 s.gs.misc.fillColor := by
  unfold State.fbFill
  rw [hsize]
  exact s.rd16_wr16 _ _

theorem State.fbFill_rd32 (s : State) (p : Word) (hsize : s.gs.img.fbSize = 3) :
    (s.fbFill p).rd32 (s.fbIndex32 p) = s.gs.misc.fillColor := by
  unfold State.fbFill
  rw [hsize]
  exact (s.pairWr32_frame _ _ _ _).2.2.1

/-! A read depends on the bytes it names. -/

section ReadCongr

variable {u : State} {p : Word} (hm : m.ramExtra = s.ramExtra) (hu : u.ramExtra = s.ramExtra)
include hm hu

theorem State.rd8_congr (h : ∀ a, a = s.mask8 p → m.ramByte a = u.ramByte a) : m.rd8 p = u.rd8 p := by
  unfold State.rd8 State.mask8
  rw [State.ramBytes_congr hm, State.ramBytes_congr hu]
  exact h _ rfl

theorem State.rd16_congr (h : ∀ a, a / 2 = s.mask16 p → m.ramByte a = u.ramByte a) : m.rd16 p = u.rd16 p := by
  unfold State.mask16 at h
  unfold State.rd16 State.mask16
  rw [State.ramBytes_congr hm, State.ramBytes_congr hu, h _ (by omega), h _ (by omega)]

theorem State.rd32_congr (h : ∀ a, a / 4 = s.mask32 p → m.ramByte a = u.ramByte a) : m.rd32 p = u.rd32 p := by
  unfold State.mask32 at h
  unfold State.rd32 State.mask32
  rw [State.ramBytes_congr hm, State.ramBytes_congr hu, h _ (by omega), h _ (by omega), h _ (by omega), h _ (by omega)]

end ReadCongr

/-! ### The fill renderer on one scanline (R250) -/

theorem CopyFrame.fillFrame (h : CopyFrame s t) : FillFrame s t := by
  unfold FillFrame
  rw [h]

theorem CopyFrame.trackPixel (h : CopyFrame s t) (j : Int) (x : BitVec 12) : CopyFrame s (t.trackPixel j x) :=
  h.trans (.setSeq _)

theorem CopyFrame.cvgAt (h : CopyFrame s t) (x : Nat) : t.cvgAt x = s.cvgAt x := by
  rw [h]
  rfl

theorem CopyFrame.fbFill (p : Word) : CopyFrame s (s.fbFill p) := by
  unfold State.fbFill
  split
  · exact .refl s
  · exact .of_store (s.pairWr8_frame _ _ _).1
  · exact .of_store (s.pairWr16_frame _ _ _).1
  · exact .of_store (s.pairWr32_frame _ _ _ _).1

/-! The coverage engine does not read the sequencer's position, and leaves it. -/

theorem setSeq_cvgAt (s : State) (q : Seq) (x : Nat) : (s.setSeq q).cvgAt x = s.cvgAt x := rfl

theorem setSeq_putCvg (s : State) (q : Seq) (x : Nat) (v : Byte) : (s.setSeq q).putCvg x v = (s.putCvg x v).setSeq q := by
  unfold State.putCvg
  split <;> rfl

theorem setSeq_mapCvg (s : State) (q : Seq) (f : Byte → Byte) (lo hi : Int) :
    (s.setSeq q).mapCvg f lo hi = (s.mapCvg f lo hi).setSeq q :=
  forUp_hom (f := (State.setSeq · q)) (fun _ x => setSeq_putCvg x q _ _) _ _ _

theorem setSeq_cvgSub (s : State) (q : Seq) (a b : Int) (n : Fin 4) (inval : Bool) (l r : BitVec 13) :
    (s.setSeq q).cvgSub a b n inval l r = (s.cvgSub a b n inval l r).setSeq q := by
  unfold State.cvgSub
  simp only [setSeq_mapCvg, setSeq_cvgAt, setSeq_putCvg, apply_ite (State.setSeq · q)]

theorem setSeq_cvgBuild (s : State) (q : Seq) (i : Int) (flip : Bool) :
    (s.setSeq q).cvgBuild i flip = (s.cvgBuild i flip).setSeq q := by
  have hspan : (s.setSeq q).spanAt i = s.spanAt i := rfl
  unfold State.cvgBuild
  cases flip <;>
    simp only [hspan, setSeq_mapCvg, setSeq_cvgSub, apply_ite (State.setSeq · q), Bool.false_eq_true, if_true, if_false]

/-- The state in which the pixels of scanline `i` are filled: the position is written and the coverage built. -/
def State.fillBegin (s : State) (i : Int) (flip : Bool) : State :=
  (s.setSeq { s.gs.seq with i := BitVec.ofInt 10 i }).cvgBuild i flip

theorem FillFrame.fillBegin (s : State) (i : Int) (flip : Bool) : FillFrame s (s.fillBegin i flip) :=
  (FillFrame.setSeq _).trans (.cvgBuild i flip)

theorem State.fillBegin_cvgAt (s : State) (i : Int) (flip : Bool) (x : Nat) :
    (s.fillBegin i flip).cvgAt x = (s.cvgBuild i flip).cvgAt x := by
  unfold State.fillBegin
  rw [setSeq_cvgBuild]
  rfl

theorem State.fillBegin_ramByte (s : State) (i : Int) (flip : Bool) (a : Nat) :
    (s.fillBegin i flip).ramByte a = s.ramByte a := by
  have h : Stage (fun _ => False) s (s.fillBegin i flip) :=
    (Stage.setSeq { s.gs.seq with i := BitVec.ofInt 10 i } rfl).trans (.cvgBuild i flip)
  exact h.ram a id

theorem fillLine_eq (h : (s.spanAt i).validline = true) : fillLine flip i s =
    forUp (fillPixel flip i (s.spanAt i)) (count 0 (spanLength (s.spanAt i) flip)) 0 (s.fillBegin i flip) := if_pos h

/-- A pixel of a scanline is covered: its coverage count is above 0. -/
def Covered (s : State) (flip : Bool) (i j : Int) : Prop :=
  (cvlut ((s.cvgBuild i flip).cvgAt (pixelX s flip i j).toNat)).cvg ≠ 0

/-- In the loop over the pixels of scanline `i` of `s`, the bytes of pixel `j` are those of the state `u`. -/
structure PixelAs (s : State) (flip : Bool) (i j : Int) (u m : State) : Prop where
  frame : CopyFrame (s.fillBegin i flip) m
  bytes : ∀ a, fbBytes s (pixelIndexAt s flip i j) a → m.ramByte a = u.ramByte a

section FillPixel

variable {u : State} (h : CopyFrame (s.fillBegin i flip) m)
include h

theorem fillPixel_covered (hc : Covered s flip i k) : fillPixel flip i (s.spanAt i) k m =
    (m.trackPixel k (pixelX s flip i k)).fbFill (pixelIndexAt s flip i k) := by
  have himg : m.gs.img = s.gs.img := (congrArg (fun x : State => x.gs.img) ((FillFrame.fillBegin s i flip).trans h.fillFrame) :)
  unfold Covered at hc
  rw [← State.fillBegin_cvgAt, ← h.cvgAt] at hc
  unfold fillPixel pixelIndexAt
  rw [himg]
  exact if_neg hc

theorem fillPixel_uncovered (hc : ¬ Covered s flip i k) :
    fillPixel flip i (s.spanAt i) k m = m.trackPixel k (pixelX s flip i k) := by
  unfold Covered at hc
  rw [not_not, ← State.fillBegin_cvgAt, ← h.cvgAt] at hc
  exact if_pos hc

end FillPixel

section PixelAs

variable {u : State}

theorem PixelAs.frame_s (h : PixelAs s flip i j u m) : FillFrame s m :=
  (FillFrame.fillBegin s i flip).trans h.frame.fillFrame

theorem PixelAs.trackPixel (h : PixelAs s flip i j u m) (k : Int) (x : BitVec 12) : PixelAs s flip i j u (m.trackPixel k x) :=
  ⟨h.frame.trackPixel k x, h.bytes⟩

/-- No other pixel's fill reaches the bytes of pixel `j`. -/
theorem PixelAs.fillPixel_other (h : PixelAs s flip i j u m) (hj : inSpan s flip i j) (hk : inSpan s flip i k) (hne : k ≠ j) :
    PixelAs s flip i j u (fillPixel flip i (s.spanAt i) k m) := by
  have htrack := h.trackPixel k (pixelX s flip i k)
  by_cases hc : Covered s flip i k
  · rw [fillPixel_covered h.frame hc]
    refine ⟨htrack.frame.trans (.fbFill _), fun a ha => ?_⟩
    rw [State.fbFill_ramByte_other _ _ fun hb => ?_, htrack.bytes a ha]
    have hb' : fbBytes s (pixelIndexAt s flip i k) a := by
      rw [htrack.frame_s] at hb
      exact hb
    exact hne (fbBytes_disjoint hk hj hb' ha)
  · rw [fillPixel_uncovered h.frame hc]
    exact htrack

theorem PixelAs.fillPixel_own (h : PixelAs s flip i j s m) (hc : Covered s flip i j) :
    PixelAs s flip i j (s.fbFill (pixelIndexAt s flip i j)) (fillPixel flip i (s.spanAt i) j m) := by
  have htrack := h.trackPixel j (pixelX s flip i j)
  rw [fillPixel_covered h.frame hc]
  exact ⟨htrack.frame.trans (.fbFill _), fun a ha => htrack.frame_s.fbFill_ramByte _ (htrack.bytes a ha)⟩

/-- What the fill renderer leaves in pixel `j` of its scanline is what the pixel's own turn in the loop leaves. -/
theorem fillLine_pixelAs (hj : inSpan s flip i j)
    (own : ∀ m, PixelAs s flip i j s m → PixelAs s flip i j u (fillPixel flip i (s.spanAt i) j m)) :
    PixelAs s flip i j u (fillLine flip i s) := by
  have ⟨hvalid, h0, hlen⟩ := hj
  rw [fillLine_eq hvalid]
  have hcount : j < 0 + (count 0 (spanLength (s.spanAt i) flip) : Nat) := by unfold count; omega
  refine forUpE_at (fun _ => PixelAs s flip i j s) (fun _ => PixelAs s flip i j u) h0 hcount (fun k m _ h1 h2 hm hy => ?_)
    (fun m _ hm hy => ?_) (fun k m _ h1 h2 hm hy => ?_) ⟨.refl _, fun a _ => s.fillBegin_ramByte i flip a⟩
    (forUpE_pure _ _ _ _)
  · cases hy
    exact hm.fillPixel_other hj ⟨hvalid, h1, by omega⟩ h2.ne
  · cases hy
    exact own m hm
  · cases hy
    exact hm.fillPixel_other hj ⟨hvalid, by omega, lt_count h2 (by omega)⟩ h1.ne'

/-- A read of pixel `j` gives what it gives in `u`, at each size of the framebuffer. -/
theorem PixelAs.reads (h : PixelAs s flip i j u m) (hu : u.ramExtra = s.ramExtra) :
    let p := pixelIndexAt s flip i j
    (s.gs.img.fbSize = 1 → m.rd8 (s.fbIndex8 p) = u.rd8 (s.fbIndex8 p)) ∧
    (s.gs.img.fbSize = 2 → m.rd16 (s.fbIndex16 p) = u.rd16 (s.fbIndex16 p)) ∧
    (s.gs.img.fbSize = 3 → m.rd32 (s.fbIndex32 p) = u.rd32 (s.fbIndex32 p)) := by
  intro p
  have hm : m.ramExtra = s.ramExtra := (congrArg State.ramExtra h.frame_s :)
  have hbytes := h.bytes
  unfold fbBytes at hbytes
  refine ⟨fun hsize => ?_, fun hsize => ?_, fun hsize => ?_⟩ <;> rw [hsize] at hbytes
  · exact State.rd8_congr hm hu hbytes
  · exact State.rd16_congr hm hu hbytes
  · exact State.rd32_congr hm hu hbytes

end PixelAs

theorem renderFill_one (i : BitVec 12) (flip : Bool) (hc : crashConfig 3 s = false) :
    s.renderFill i i flip = fillLine flip i.toInt s := by
  have h : (¬ s.gs.img.fbSize = 0 ∧ Om.zCompareEn s.gs.om = false) ∧ Om.zUpdateEn s.gs.om = false := by
    simpa [crashConfig] using hc
  obtain ⟨⟨hsize, hcmp⟩, hupd⟩ := h
  unfold State.renderFill
  rw [if_neg hsize, if_neg (by simp [hcmp, hupd]), count_self]
  rfl

/-- A covered pixel holds the fill colour of its size, an uncovered one what it held (R250, R510). -/
theorem fillLine_pixel (hj : inSpan s flip i j) :
    let t := fillLine flip i s
    let p := pixelIndexAt s flip i j
    let c := s.gs.misc.fillColor.toNat
    (Covered s flip i j →
      (s.gs.img.fbSize = 1 → (t.rd8 (s.fbIndex8 p)).toNat = c / 0x1000000) ∧
      (s.gs.img.fbSize = 2 → (t.rd16 (s.fbIndex16 p)).toNat =
        c / 0x8000000 * 2048 + c / 0x80000 % 32 * 64 + c / 0x800 % 32 * 2 + c / 0x80 % 2) ∧
      (s.gs.img.fbSize = 3 → (t.rd32 (s.fbIndex32 p)).toNat = c)) ∧
    (¬ Covered s flip i j → ∀ a, fbBytes s p a → t.ramByte a = s.ramByte a) := by
  intro t p c
  refine ⟨fun hc => ?_, fun hc => ?_⟩
  · have h : PixelAs s flip i j (s.fbFill p) t := fillLine_pixelAs hj fun m hm => hm.fillPixel_own hc
    obtain ⟨h8, h16, h32⟩ := h.reads (congrArg State.ramExtra (FillFrame.fbFill p) :)
    refine ⟨fun hsize => ?_, fun hsize => ?_, fun hsize => ?_⟩
    · rw [h8 hsize, s.fbFill_rd8 p hsize]
    · rw [h16 hsize, s.fbFill_rd16 p hsize, fill16_toNat]
    · rw [h32 hsize, s.fbFill_rd32 p hsize]
  · have h : PixelAs s flip i j s t := fillLine_pixelAs hj fun m hm => by
      rw [fillPixel_uncovered hm.frame hc]
      exact hm.trackPixel _ _
    exact h.bytes

/-! ### The copy renderer on one scanline (R240) -/

/-- The coordinates of group `g` of a span: each advances by its increment once per group. -/
def groupCoords (s : State) (flip : Bool) (i g : Int) : Coord3 :=
  let a := (s.spanAt i).attrs
  let after := fun (v d : Word) => v + stepOf flip d * BitVec.ofInt 32 g
  ⟨after a.s s.gs.slopes.ds, after a.t s.gs.slopes.dt, after a.w s.gs.slopes.dw⟩

theorem groupCoords_succ (s : State) (flip : Bool) (i g : Int) :
    let c := groupCoords s flip i g
    let inc := s.increments flip
    (⟨c.s + inc.s, c.t + inc.t, c.w + inc.w⟩ : Coord3) = groupCoords s flip i (g + 1) := by
  have hstep : ∀ v d : Word, v + stepOf flip d * BitVec.ofInt 32 g + stepOf flip d =
      v + stepOf flip d * BitVec.ofInt 32 (g + 1) := fun v d => by
      rw [BitVec.ofInt_add, BitVec.mul_add, ← BitVec.add_assoc]
      congr 1
      exact (BitVec.mul_one _).symm
  have hinc : (s.increments flip).s = stepOf flip s.gs.slopes.ds ∧ (s.increments flip).t = stepOf flip s.gs.slopes.dt ∧
      (s.increments flip).w = stepOf flip s.gs.slopes.dw := by cases flip <;> exact ⟨rfl, rfl, rfl⟩
  obtain ⟨hs, ht, hw⟩ := hinc
  simp only [groupCoords, hs, ht, hw, hstep]

/-- The integer part of an accumulator after `g` steps. -/
theorem groupCoord_integer (flip : Bool) (v d : Word) (g : Int) : (v + stepOf flip d * BitVec.ofInt 32 g).extractLsb' 16 16 =
    BitVec.ofInt 16 ((v.toInt + g * (if flip then d.toInt else -d.toInt)) / 0x10000) := by
  have hword : v + stepOf flip d * BitVec.ofInt 32 g = BitVec.ofInt 32 (v.toInt + g * (if flip then d.toInt else -d.toInt)) := by
    have hd : stepOf flip d = BitVec.ofInt 32 (if flip then d.toInt else -d.toInt) := by
      cases flip <;> simp [stepOf, BitVec.ofInt_neg]
    rw [hd, Int.mul_comm, BitVec.ofInt_add, BitVec.ofInt_mul, BitVec.ofInt_toInt]
  apply BitVec.eq_of_toNat_eq
  rw [hword, BitVec.extractLsb'_toNat, BitVec.toNat_ofInt, BitVec.toNat_ofInt, Nat.shiftRight_eq_div_pow]
  generalize v.toInt + g * _ = x
  omega

/-- What the texel of a pixel depends on is as it was. -/
theorem CopyFrame.copyTexel16 (h : CopyFrame s m) (n : BitVec 3) (a b : BitVec 16) (p : BitVec 2) :
    m.copyTexel16 n a b p = s.copyTexel16 n a b p := by
  rw [h]
  rfl

/-- The 16-bit unit of pixel `j` in the colour image. -/
def pixelUnit (s : State) (flip : Bool) (i j : Int) : Word := s.fbIndex16 (pixelIndexAt s flip i j)

theorem pixelUnit_inj (hj : inSpan s flip i j) (hk : inSpan s flip i k)
    (h : s.mask16 (pixelUnit s flip i j) = s.mask16 (pixelUnit s flip i k)) : j = k := by
  unfold pixelUnit pixelIndexAt State.fbIndex16 at h
  simp only [← BitVec.add_assoc] at h
  exact pixelX_inj hj hk (mask16_pixel_inj _ h)

/-- What the unit `u` holds after the copy of a texel: the texel with its alpha bit in the hidden entry, or what it held where
alpha compare rejects the texel (R240). -/
def State.copied (s : State) (texel : BitVec 16) (u : Word) : BitVec 16 × BitVec 2 :=
  if Om.alphaCompareEn s.gs.om = false ∨ texel.getLsbD 0 = true then (texel, if texel.getLsbD 0 then 3 else 0) else s.pairRd16 u

theorem State.pairRd16_pairWr16_other {u w : Word} (h : s.mask16 u ≠ s.mask16 w) (v : BitVec 16) (x : BitVec 2) :
    (s.pairWr16 w v x).pairRd16 u = s.pairRd16 u := by
  obtain ⟨-, hram, -, hhid⟩ := s.pairWr16_frame w v x
  refine Prod.ext (State.rd16_congr (s := s) rfl rfl fun a ha => hram a (by omega)) ?_
  exact (hhid _).trans (if_neg h)

section CopyPixel

variable {l : LodC} {j₀ p : Int} (hm : CopyFrame s m)
include hm

/-- The turn of pixel `j₀ + p` in its group: it fetches a texel, and stores it unless alpha compare rejects it. -/
theorem copyPixel_cases (hin : j₀ + p ≤ spanLength (s.spanAt i) flip)
    (h : copyPixel flip i (spanLength (s.spanAt i) flip) j₀ (pixelX s flip i j₀) l p m = .ok m') :
    ∃ texel, s.copyTexel16 l.tile l.sss l.sst (BitVec.ofInt 2 p) = .ok texel ∧
      m' = if Om.alphaCompareEn s.gs.om = false ∨ texel.getLsbD 0 = true
        then m.pairWr16 (pixelUnit s flip i (j₀ + p)) texel (if texel.getLsbD 0 then 3 else 0) else m := by
  have himg : m.gs.img = s.gs.img := (congrArg (fun x : State => x.gs.img) hm :)
  have hom : m.gs.om = s.gs.om := (congrArg (fun x : State => x.gs.om) hm :)
  have hunit : m.fbIndex16 (m.gs.img.fbWidth.setWidth 32 * BitVec.ofInt 32 i +
      (pixelX s flip i j₀ + (xStep flip).setWidth 12 * BitVec.ofInt 12 p).setWidth 32) = pixelUnit s flip i (j₀ + p) := by
    unfold pixelUnit pixelIndexAt State.fbIndex16
    rw [pixelX_add, himg]
  unfold copyPixel at h
  simp only [hin, if_true, hunit] at h
  obtain ⟨texel, htexel, h⟩ := andThen_ok.1 h
  rw [hm.copyTexel16] at htexel
  refine ⟨texel, htexel, ?_⟩
  simp only [Bool.or_eq_true, Bool.not_eq_true', hom] at h
  rw [← Except.ok.injEq, ← h, apply_ite Except.ok]

/-- The turn of another pixel leaves pixel `j`. -/
theorem copyPixel_other (hj : inSpan s flip i j) (h0 : 0 ≤ j₀ + p) (hne : j₀ + p ≠ j)
    (h : copyPixel flip i (spanLength (s.spanAt i) flip) j₀ (pixelX s flip i j₀) l p m = .ok m') :
    m'.pairRd16 (pixelUnit s flip i j) = m.pairRd16 (pixelUnit s flip i j) := by
  by_cases hin : j₀ + p ≤ spanLength (s.spanAt i) flip
  · obtain ⟨texel, -, rfl⟩ := copyPixel_cases hm hin h
    have hmask : m.mask16 (pixelUnit s flip i j) ≠ m.mask16 (pixelUnit s flip i (j₀ + p)) := by
      rw [hm]
      exact fun heq => hne (pixelUnit_inj ⟨hj.1, h0, hin⟩ hj heq.symm)
    split
    · exact State.pairRd16_pairWr16_other hmask _ _
    · rfl
  · unfold copyPixel at h
    simp only [hin, if_false] at h
    cases h
    rfl

/-- The turn of pixel `j` itself, while it holds what it held before. -/
theorem copyPixel_own (hin : j₀ + p ≤ spanLength (s.spanAt i) flip)
    (hread : m.pairRd16 (pixelUnit s flip i (j₀ + p)) = s.pairRd16 (pixelUnit s flip i (j₀ + p)))
    (h : copyPixel flip i (spanLength (s.spanAt i) flip) j₀ (pixelX s flip i j₀) l p m = .ok m') :
    ∃ texel, s.copyTexel16 l.tile l.sss l.sst (BitVec.ofInt 2 p) = .ok texel ∧
      m'.pairRd16 (pixelUnit s flip i (j₀ + p)) = s.copied texel (pixelUnit s flip i (j₀ + p)) := by
  obtain ⟨texel, htexel, rfl⟩ := copyPixel_cases hm hin h
  refine ⟨texel, htexel, ?_⟩
  unfold State.copied
  split
  · exact m.pairRd16_pairWr16 _ _ _
  · exact hread

end CopyPixel

/-- The four pixels of another group leave pixel `j`. -/
theorem copyPixels_other {l : LodC} {g : Int} (hm : CopyFrame s m) (hj : inSpan s flip i j) (hg : 0 ≤ g) (hne : g ≠ j / 4)
    (h : forUpE (copyPixel flip i (spanLength (s.spanAt i) flip) (4 * g) (pixelX s flip i (4 * g)) l) 4 0 m = .ok m') :
    m'.pairRd16 (pixelUnit s flip i j) = m.pairRd16 (pixelUnit s flip i j) := by
  refine (forUpE_inv (fun _ x => CopyFrame s x ∧ x.pairRd16 (pixelUnit s flip i j) = m.pairRd16 (pixelUnit s flip i j))
    _ _ _ _ (fun p x y h1 h2 hx hy => ?_) ⟨hm, rfl⟩ h).2
  exact ⟨hx.1.trans (copyPixel_frame hy), (copyPixel_other hx.1 hj (by omega) (by omega) hy).trans hx.2⟩

/-- Pixel `j` after its group: the texel of its place in the group. -/
theorem copyPixels_own {l : LodC} (hm : CopyFrame s m) (hj : inSpan s flip i j)
    (hread : m.pairRd16 (pixelUnit s flip i j) = s.pairRd16 (pixelUnit s flip i j))
    (h : forUpE (copyPixel flip i (spanLength (s.spanAt i) flip) (4 * (j / 4)) (pixelX s flip i (4 * (j / 4))) l) 4 0 m =
      .ok m') :
    ∃ texel, s.copyTexel16 l.tile l.sss l.sst (BitVec.ofInt 2 (j % 4)) = .ok texel ∧
      m'.pairRd16 (pixelUnit s flip i j) = s.copied texel (pixelUnit s flip i j) := by
  have hplace : 4 * (j / 4) + j % 4 = j := by omega
  have hin : 4 * (j / 4) + j % 4 ≤ spanLength (s.spanAt i) flip := by rw [hplace]; exact hj.2.2
  have hj0 := hj.2.1
  refine (forUpE_at (fun _ x => CopyFrame s x ∧ x.pairRd16 (pixelUnit s flip i j) = s.pairRd16 (pixelUnit s flip i j))
    (fun _ x => CopyFrame s x ∧ ∃ texel, s.copyTexel16 l.tile l.sss l.sst (BitVec.ofInt 2 (j % 4)) = .ok texel ∧
      x.pairRd16 (pixelUnit s flip i j) = s.copied texel (pixelUnit s flip i j)) (k := j % 4) (by omega) (by omega)
    (fun p x y h1 h2 hx hy => ?_) (fun x y hx hy => ?_) (fun p x y h1 h2 hx hy => ?_) ⟨hm, hread⟩ h).2
  · exact ⟨hx.1.trans (copyPixel_frame hy), (copyPixel_other hx.1 hj (by omega) (by omega) hy).trans hx.2⟩
  · have hown := copyPixel_own hx.1 hin (by rw [hplace]; exact hx.2) hy
    rw [hplace] at hown
    exact ⟨hx.1.trans (copyPixel_frame hy), hown⟩
  · obtain ⟨hframe, texel, htexel, hread⟩ := hx
    exact ⟨hframe.trans (copyPixel_frame hy), texel, htexel,
      (copyPixel_other hframe hj (by omega) (by omega) hy).trans hread⟩

/-- The copy renderer at the start of group `g` of a span. -/
structure CopyAt (s : State) (flip : Bool) (i g : Int) (v : CopyVars) : Prop where
  frame : CopyFrame s v.st
  x : v.x = pixelX s flip i (4 * g)
  c : v.c = groupCoords s flip i g

theorem CopyFrame.lodCopy (h : CopyFrame s m) (c : Coord3) (n : BitVec 3) :
    m.lodCopy (m.tcDivAcc c.s c.t c.w) n = s.lodCopy (s.tcDivAcc c.s c.t c.w) n := by
  rw [h]
  rfl

/-- One group: its coordinates are divided and clamped once, its pixels copied, and the position moves on to the next. -/
theorem CopyAt.copyGroup {tilenum : BitVec 3} {length g : Int} {v w : CopyVars} (hv : CopyAt s flip i g v)
    (h : copyGroup (s.increments flip) tilenum flip i length g v = .ok w) : CopyAt s flip i (g + 1) w ∧
    ∃ l, s.lodCopy (s.tcDivAcc (groupCoords s flip i g).s (groupCoords s flip i g).t (groupCoords s flip i g).w) tilenum =
        .ok l ∧
      forUpE (copyPixel flip i length (4 * g) (pixelX s flip i (4 * g)) l) 4 0 (v.st.trackPixel (4 * g) v.x) = .ok w.st := by
  have hframe := copyGroup_frame h
  obtain ⟨l, hl, h⟩ := andThen_ok.1 h
  obtain ⟨m, hm, h⟩ := andThen_ok.1 h
  have hlod := (hv.frame.trackPixel (4 * g) v.x).lodCopy v.c tilenum
  cases h
  refine ⟨⟨hv.frame.trans hframe, ?_, ?_⟩, l, ?_, ?_⟩
  · have e : (4 : BitVec 12) * (xStep flip).setWidth 12 = (xStep flip).setWidth 12 * BitVec.ofInt 12 4 := by
      cases flip <;> decide
    show v.x + 4 * (xStep flip).setWidth 12 = _
    rw [hv.x, e, pixelX_add, Int.mul_add]
    rfl
  · rw [← groupCoords_succ, hv.c]
  · rw [← hv.c, ← hl]
    exact hlod.symm
  · rw [← hv.x]
    exact hm

/-- Pixel `j` has been copied: the coordinates of its group gave its texel, and its unit holds that, or what it held. -/
def CopyDone (s : State) (flip : Bool) (i : Int) (tilenum : BitVec 3) (j : Int) (m : State) : Prop :=
  ∃ l texel,
    s.lodCopy (s.tcDivAcc (groupCoords s flip i (j / 4)).s (groupCoords s flip i (j / 4)).t
      (groupCoords s flip i (j / 4)).w) tilenum = .ok l ∧
    s.copyTexel16 l.tile l.sss l.sst (BitVec.ofInt 2 (j % 4)) = .ok texel ∧
    m.pairRd16 (pixelUnit s flip i j) = s.copied texel (pixelUnit s flip i j)

/-- The loop over the groups of a span copies each of its pixels. -/
theorem copyGroups_done {tilenum : BitVec 3} {v w : CopyVars} (hj : inSpan s flip i j) (hv : CopyAt s flip i 0 v)
    (hread : v.st.pairRd16 (pixelUnit s flip i j) = s.pairRd16 (pixelUnit s flip i j))
    (h : forUpE (copyGroup (s.increments flip) tilenum flip i (spanLength (s.spanAt i) flip))
      (count 0 (spanLength (s.spanAt i) flip / 4)) 0 v = .ok w) : CopyDone s flip i tilenum j w.st := by
  have ⟨_, hj0, hlen⟩ := hj
  refine (forUpE_at (fun g x => CopyAt s flip i g x ∧ x.st.pairRd16 (pixelUnit s flip i j) = s.pairRd16 (pixelUnit s flip i j))
    (fun g x => CopyAt s flip i g x ∧ CopyDone s flip i tilenum j x.st) (k := j / 4) (by omega) (by unfold count; omega)
    (fun g x y h1 h2 hx hy => ?_) (fun x y hx hy => ?_) (fun g x y h1 h2 hx hy => ?_) ⟨hv, hread⟩ h).2
  · obtain ⟨hnext, l, -, hpixels⟩ := hx.1.copyGroup hy
    exact ⟨hnext, (copyPixels_other (hx.1.frame.trackPixel _ _) hj h1 h2.ne hpixels).trans hx.2⟩
  · obtain ⟨hnext, l, hl, hpixels⟩ := hx.1.copyGroup hy
    obtain ⟨texel, htexel, hcopied⟩ := copyPixels_own (hx.1.frame.trackPixel _ _) hj hx.2 hpixels
    exact ⟨hnext, l, texel, hl, htexel, hcopied⟩
  · obtain ⟨hat, l', texel, hl', htexel, hcopied⟩ := hx
    obtain ⟨hnext, l, -, hpixels⟩ := hat.copyGroup hy
    exact ⟨hnext, l', texel, hl', htexel,
      (copyPixels_other (hat.frame.trackPixel _ _) hj (by omega) h1.ne' hpixels).trans hcopied⟩

theorem renderCopy_one {i : BitVec 12} {tilenum : BitVec 3} (hz : s.gs.img.fbSize = 2)
    (h : s.renderCopy i i tilenum flip = .ok t) : copyLine (s.increments flip) tilenum flip i.toInt s = .ok t := by
  unfold State.renderCopy at h
  rw [hz, count_self] at h
  cases hline : copyLine (s.increments flip) tilenum flip i.toInt s with
  | ok u => simpa [forUpE, hline] using h
  | error e => simp [forUpE, hline] at h

/-- The copy renderer on one scanline copies each pixel of its span. -/
theorem copyLine_done {tilenum : BitVec 3} (hj : inSpan s flip i j)
    (h : copyLine (s.increments flip) tilenum flip i s = .ok t) : CopyDone s flip i tilenum j t := by
  have hspan : (s.setSeq { s.gs.seq with i := BitVec.ofInt 10 i }).spanAt i = s.spanAt i := rfl
  unfold copyLine at h
  simp only [hspan, hj.1, if_true] at h
  obtain ⟨v, hv, h⟩ := andThen_ok.1 h
  cases h
  refine copyGroups_done hj ?_ ?_ hv
  · exact ⟨.setSeq _, by simp [pixelX], by simp [groupCoords]⟩
  · rfl

theorem exec_selectTcDiv (s : State) (a b c : BitVec 16) : exec (selectTcDiv s.gs.der.persp a b c) s =
    .next { s with ret := .coords19 (s.tcDiv a b c).s (s.tcDiv a b c).t } := by
  unfold State.tcDiv
  cases s.gs.der.persp <;> rfl

theorem lodCopy_tile {c : Coord2} {n : BitVec 3} {l : LodC} (h : s.lodCopy c n = .ok l) : l.tile = n := by
  unfold State.lodCopy at h
  split at h
  · cases h
  · cases h
    rfl

/-- Settles O27: `fillLine_pixel` for the fill renderer, `copyLine_done` for the copy renderer. -/
theorem fillAndCopyWriteTheirPixels : Obligations.FillAndCopyWriteTheirPixels := by
  unfold Obligations.FillAndCopyWriteTheirPixels
  refine ⟨fun s t i flip j hc h hj => ?_, fun s t i tilenum flip j hz h hj => ?_⟩
  · cases h
    show let t := s.renderFill i i flip; _
    rw [renderFill_one i flip hc]
    exact fillLine_pixel hj
  · intro a at16 unit
    obtain ⟨l, texel, hl, htexel, hread⟩ := copyLine_done hj (renderCopy_one hz (ofExcept_next h))
    have hcoord : ∀ v d : Word, (v + stepOf flip d * BitVec.ofInt 32 (j / 4)).extractLsb' 16 16 = at16 v d :=
      fun v d => groupCoord_integer flip v d (j / 4)
    have htile := lodCopy_tile hl
    have hplace : BitVec.ofInt 2 (j % 4) = BitVec.ofInt 2 j := by
      apply BitVec.eq_of_toNat_eq
      rw [BitVec.toNat_ofInt, BitVec.toNat_ofInt]
      omega
    unfold State.tcDivAcc groupCoords at hl
    simp only [hcoord] at hl
    rw [htile, hplace] at htexel
    refine ⟨_, _, l.sss, l.sst, texel, exec_selectTcDiv s _ _ _, ?_, congrArg (retOf s .texel16) htexel, hread⟩
    rw [← htile] at hl ⊢
    exact congrArg (retOf s fun l : LodC => .lodCopy l.sss l.sst l.tile) hl

end Sys2Proof.Machine

end

/-! ## The texture unit family: coordinates, filter arms, the texture cycle and level of detail (`42_texture_unit.md`)

Each operation is first given by its integer form: a masked field is a remainder (`and_field`), a signed field the integer it
codes (`toNat_eq_toInt_emod`). The perspective divider splits into the shifted product and the marks above it, the mask into the
repetition and the step, the texture cycle into the taps of its path and the arm, level of detail into the value, the signals
and the tiles they choose. -/

section

namespace Sys2Proof.Machine

/-! ### Fields as integers -/

/-- The code of a field is its signed value modulo its range. -/
theorem toNat_eq_toInt_emod {n : Nat} (v : BitVec n) : (v.toNat : Int) = v.toInt % 2 ^ n := by
  have h : (2 : Int) ^ n = (2 ^ n : Nat) := by push_cast; rfl
  rw [BitVec.toInt_eq_toNat_bmod, h, Int.bmod_emod, Int.emod_eq_of_lt (by positivity) (by exact_mod_cast v.isLt)]

/-- An integer written to a field is kept modulo its range. -/
theorem toNat_ofInt_eq_emod (n : Nat) (x : Int) : ((BitVec.ofInt n x).toNat : Int) = x % 2 ^ n := by
  rw [BitVec.toNat_ofInt, Int.toNat_of_nonneg (Int.emod_nonneg _ (by positivity))]
  push_cast
  rfl

/-! ### Coordinate divide (R264, R266) -/

/-- An axis without perspective: `sext_16(c) & 0x1FFFF` (R264). -/
theorem nonperspAxis_toNat (c : BitVec 16) : (((c.signExtend 17).setWidth 19).toNat : Int) = c.toInt % 0x20000 := by
  rw [BitVec.toNat_setWidth_of_le (by decide), toNat_eq_toInt_emod, BitVec.toInt_signExtend_of_le (by decide)]
  rfl

/-- The product of a coordinate and a reciprocal. -/
def perspProduct (c : BitVec 16) (e : RcpEntry) : Word := c.signExtend 32 * e.rcp.setWidth 32

/-- It fits in 31 bits, so no bit of it is lost (R266). -/
theorem perspProduct_toInt (c : BitVec 16) (e : RcpEntry) : (perspProduct c e).toInt = c.toInt * e.rcp.toNat := by
  have hlo := BitVec.le_toInt c
  have hhi := BitVec.toInt_lt (x := c)
  have hr := e.rcp.isLt
  have hrcp : (e.rcp.setWidth 32).toInt = e.rcp.toNat := by
    rw [BitVec.toInt_setWidth]
    exact Int.bmod_eq_of_le (by omega) (by omega)
  unfold perspProduct
  rw [BitVec.toInt_mul, BitVec.toInt_signExtend_of_le (by decide), hrcp]
  norm_num at hlo hhi hr
  exact Int.bmod_eq_of_le (by norm_num; nlinarith) (by norm_num; nlinarith)

/-- The mask of R266: the `shift + 1` bits below bit 30. -/
def perspMask (e : RcpEntry) : Word := 0x3FFFFFFF &&& -(0x20000000#32 >>> e.shift.val)

theorem perspMask_toNat (e : RcpEntry) : (perspMask e).toNat = (2 ^ (e.shift.val + 1) - 1) * 2 ^ (29 - e.shift.val) := by
  have h : ∀ k : Fin 15, (0x3FFFFFFF &&& -(0x20000000#32 >>> k.val) : Word).toNat =
      (2 ^ (k.val + 1) - 1) * 2 ^ (29 - k.val) := by decide
  exact h e.shift

/-- The product's bits under the mask, which say whether it is out of bounds (R266). -/
def perspHigh (c : BitVec 16) (e : RcpEntry) : Nat := (perspProduct c e).toNat % 2 ^ 30 / 2 ^ (29 - e.shift.val)

theorem perspHigh_eq (c : BitVec 16) (e : RcpEntry) :
    (perspHigh c e : Int) = c.toInt * e.rcp.toNat % 0x40000000 / 2 ^ (29 - e.shift.val) := by
  have h := toNat_eq_toInt_emod (perspProduct c e)
  rw [perspProduct_toInt] at h
  unfold perspHigh
  push_cast
  rw [h, Int.emod_emod_of_dvd _ (by decide)]

theorem perspProduct_and_mask (c : BitVec 16) (e : RcpEntry) :
    (perspProduct c e &&& perspMask e).toNat = perspHigh c e * 2 ^ (29 - e.shift.val) := by
  have hk := e.shift.isLt
  have hsplit : 2 ^ 30 = 2 ^ (29 - e.shift.val) * 2 ^ (e.shift.val + 1) := by
    rw [← pow_add]
    congr 1
    omega
  rw [BitVec.toNat_and, perspMask_toNat, ← Nat.shiftLeft_eq, and_field, perspHigh, hsplit, Nat.mod_mul_right_div_self]

/-- The product is out of bounds when these bits are neither all zero nor all one (R266). -/
def perspOverflows (c : BitVec 16) (e : RcpEntry) : Prop :=
  let high := c.toInt * e.rcp.toNat % 0x40000000 / 2 ^ (29 - e.shift.val)
  high ≠ 0 ∧ high ≠ 2 ^ (e.shift.val + 1) - 1

theorem perspOverflows_iff (c : BitVec 16) (e : RcpEntry) :
    perspProduct c e &&& perspMask e ≠ perspMask e ∧ perspProduct c e &&& perspMask e ≠ 0 ↔ perspOverflows c e := by
  have hpos : 2 ^ (29 - e.shift.val) ≠ 0 := (Nat.two_pow_pos _).ne'
  have hzero : BitVec.toNat (0 : Word) = 0 := rfl
  have hones : (2 : Int) ^ (e.shift.val + 1) - 1 = (2 ^ (e.shift.val + 1) - 1 : Nat) := by
    rw [Nat.cast_sub Nat.one_le_two_pow]
    push_cast
    rfl
  unfold perspOverflows
  rw [Ne, Ne, ← BitVec.toNat_inj, ← BitVec.toNat_inj, perspProduct_and_mask, perspMask_toNat, Nat.mul_left_inj hpos, hzero,
    Nat.mul_eq_zero, or_iff_left hpos, and_comm, ← perspHigh_eq, hones]
  simp only [ne_eq, Nat.cast_inj, Nat.cast_eq_zero]

/-- The shifted product of R266. -/
def perspShifted (c : BitVec 16) (e : RcpEntry) : Word :=
  if e.shift.val ≠ 14 then (perspProduct c e).sshiftRight (13 - e.shift.val) else perspProduct c e <<< 1

theorem perspShifted_emod (c : BitVec 16) (e : RcpEntry) : ((perspShifted c e).toNat : Int) % 0x20000 =
    (if e.shift.val = 14 then 2 * (c.toInt * e.rcp.toNat) else c.toInt * e.rcp.toNat / 2 ^ (13 - e.shift.val)) % 0x20000 := by
  rw [← perspProduct_toInt]
  unfold perspShifted
  by_cases h : e.shift.val = 14
  · have hp := toInt_emod (perspProduct c e)
    rw [if_neg (not_not.2 h), if_pos h, BitVec.toNat_shiftLeft]
    omega
  · rw [if_pos h, if_neg h, toNat_eq_toInt_emod, sshiftRight_toInt, Int.emod_emod_of_dvd _ (by decide)]

/-- The mark of an axis that is out of bounds, by the product's bit 29 (R266). -/
def perspMarks (c : BitVec 16) (e : RcpEntry) : BitVec 19 :=
  if perspProduct c e &&& perspMask e ≠ perspMask e ∧ perspProduct c e &&& perspMask e ≠ 0 then
    if (perspProduct c e).getLsbD 29 then 0x20000 else 0x40000
  else 0

theorem perspAxis_eq (c : BitVec 16) (e : RcpEntry) (carry : Bool) : perspAxis c e carry =
    ((perspShifted c e &&& 0x1FFFF).setWidth 19 ||| perspMarks c e) ||| if carry then 0x40000 else 0 := rfl

theorem perspProduct_sign (c : BitVec 16) (e : RcpEntry) :
    (perspProduct c e).getLsbD 29 = decide (c.toInt * e.rcp.toNat / 0x20000000 % 2 = 1) := by
  have hp := toInt_emod (perspProduct c e)
  rw [getLsbD_eq_decide, ← perspProduct_toInt]
  exact decide_eq_decide.2 (by omega)

theorem perspMarks_cases (c : BitVec 16) (e : RcpEntry) :
    (perspMarks c e = 0x20000 ∧ perspOverflows c e ∧ c.toInt * e.rcp.toNat / 0x20000000 % 2 = 1) ∨
    (perspMarks c e = 0x40000 ∧ perspOverflows c e ∧ c.toInt * e.rcp.toNat / 0x20000000 % 2 = 0) ∨
    (perspMarks c e = 0 ∧ ¬ perspOverflows c e) := by
  by_cases hover : perspOverflows c e
  · rw [perspMarks, if_pos ((perspOverflows_iff c e).2 hover), perspProduct_sign]
    by_cases hsign : c.toInt * e.rcp.toNat / 0x20000000 % 2 = 1
    · exact .inl ⟨if_pos (decide_eq_true hsign), hover, hsign⟩
    · exact .inr (.inl ⟨if_neg (by rwa [decide_eq_true_eq]), hover, by omega⟩)
  · exact .inr (.inr ⟨if_neg (mt (perspOverflows_iff c e).1 hover), hover⟩)

/-- Below the marks an axis is the shifted product. -/
theorem perspAxis_emod (c : BitVec 16) (e : RcpEntry) (carry : Bool) :
    ((perspAxis c e carry).toNat : Int) % 0x20000 = (if e.shift.val = 14 then 2 * (c.toInt * e.rcp.toNat)
      else c.toInt * e.rcp.toNat / 2 ^ (13 - e.shift.val)) % 0x20000 := by
  have hmarks : (perspMarks c e).toNat % 2 ^ 17 = 0 := by
    rcases perspMarks_cases c e with ⟨h, -⟩ | ⟨h, -⟩ | ⟨h, -⟩ <;> rw [h] <;> rfl
  have hcarry : (if carry then 0x40000 else 0 : BitVec 19).toNat % 2 ^ 17 = 0 := by cases carry <;> rfl
  have hlow : ((perspShifted c e &&& 0x1FFFF).setWidth 19).toNat % 2 ^ 17 = (perspShifted c e).toNat % 2 ^ 17 := by
    have hand : (perspShifted c e &&& 0x1FFFF).toNat = (perspShifted c e).toNat % 2 ^ 17 := Nat.and_two_pow_sub_one_eq_mod _ 17
    rw [BitVec.toNat_setWidth, hand]
    omega
  have h : (perspAxis c e carry).toNat % 2 ^ 17 = (perspShifted c e).toNat % 2 ^ 17 := by
    rw [perspAxis_eq, BitVec.toNat_or, BitVec.toNat_or, Nat.or_mod_two_pow, Nat.or_mod_two_pow, hlow, hmarks, hcarry,
      Nat.or_zero, Nat.or_zero]
  rw [← perspShifted_emod]
  exact_mod_cast h

/-- Bit 17 marks an overflow below, bit 18 an overflow above or a `w` that is not positive (R266). -/
theorem perspAxis_marks (c : BitVec 16) (e : RcpEntry) (carry : Bool) :
    ((perspAxis c e carry).getLsbD 17 = true ↔ perspOverflows c e ∧ c.toInt * e.rcp.toNat / 0x20000000 % 2 = 1) ∧
    ((perspAxis c e carry).getLsbD 18 = true ↔
      (perspOverflows c e ∧ c.toInt * e.rcp.toNat / 0x20000000 % 2 = 0) ∨ carry = true) := by
  have hlow : ∀ i, 17 ≤ i → ((perspShifted c e &&& 0x1FFFF).setWidth 19).getLsbD i = false := fun i hi => by
    have h1 : (0x1FFFF : Word).getLsbD i = false :=
      Nat.testBit_lt_two_pow (Nat.lt_of_lt_of_le (by decide) (Nat.pow_le_pow_right (by decide) hi))
    rw [BitVec.getLsbD_setWidth, BitVec.getLsbD_and, h1, Bool.and_false, Bool.and_false]
  have hcarry : (if carry then 0x40000 else 0 : BitVec 19).getLsbD 17 = false ∧
      (if carry then 0x40000 else 0 : BitVec 19).getLsbD 18 = carry := by cases carry <;> exact ⟨rfl, rfl⟩
  rw [perspAxis_eq]
  simp only [BitVec.getLsbD_or, hlow, hcarry, Nat.le_refl, Nat.reduceLeDiff, Bool.false_or, Bool.or_false]
  rcases perspMarks_cases c e with ⟨h, hover, hsign⟩ | ⟨h, hover, hsign⟩ | ⟨h, hin⟩
  · simp [h, hover, hsign]
  · simp [h, hover, hsign]
  · simp [h, hin]

/-! ### Clamping a coordinate to 16 bits (R268) -/

theorem coordTop_toNat (c : BitVec 19) : (c &&& 0x18000).toNat = c.toNat / 2 ^ 15 % 4 * 2 ^ 15 := and_field c.toNat 2 15

/-- Without marks `TC_CLAMP17` is decided by bits 16 and 15: a positive coordinate that does not fit, a negative one, or one
that fits. -/
theorem tcClamp17_unmarked {c : BitVec 19} (h : c.toNat < 0x20000) :
    (tcClamp17 c).toInt = max (-0x8000) (min 0x7FFF ((c.toNat : Int).bmod 0x20000)) := by
  have hneg : (0x8000 : BitVec 16).toInt = -0x8000 := by decide
  have hpos : (0x7FFF : BitVec 16).toInt = 0x7FFF := by decide
  have hfits : (c.setWidth 16).toInt = (c.toNat : Int).bmod 0x10000 := BitVec.toInt_setWidth c
  have h18 : c.getLsbD 18 = false := Nat.testBit_lt_two_pow (by omega)
  have h17 : c.getLsbD 17 = false := Nat.testBit_lt_two_pow h
  have hhigh : c &&& 0x18000 = 0x08000 ↔ c.toNat / 2 ^ 15 = 1 := by
    have e : (0x08000 : BitVec 19).toNat = 0x8000 := rfl
    rw [← BitVec.toNat_inj, coordTop_toNat, e]
    omega
  have hlow : c &&& 0x18000 = 0x10000 ↔ c.toNat / 2 ^ 15 = 2 := by
    have e : (0x10000 : BitVec 19).toNat = 0x10000 := rfl
    rw [← BitVec.toNat_inj, coordTop_toNat, e]
    omega
  unfold tcClamp17
  simp only [h18, h17, Bool.false_eq_true, if_false, hhigh, hlow]
  rw [Int.bmod_def] at hfits ⊢
  split
  · omega
  · split <;> omega

/-- `TC_CLAMP17` saturates on the marks and to 16 bits. -/
theorem tcClamp17_toInt (c : BitVec 19) : (tcClamp17 c).toInt =
    if c.getLsbD 18 then 0x7FFF else if c.getLsbD 17 then -0x8000
    else max (-0x8000) (min 0x7FFF ((c.toNat : Int).bmod 0x20000)) := by
  have hlt := c.isLt
  cases h18 : c.getLsbD 18
  · cases h17 : c.getLsbD 17
    · rw [getLsbD_eq_decide, decide_eq_false_iff_not] at h18 h17
      rw [if_neg Bool.false_ne_true, if_neg Bool.false_ne_true]
      exact tcClamp17_unmarked (by omega)
    · unfold tcClamp17
      simp only [h18, h17, if_true]
      rfl
  · unfold tcClamp17
    simp only [h18, if_true]
    rfl

theorem exec_tcDivPersp (ss st sw : BitVec 16) (m : State) :
    let axis := fun c => perspAxis c (Config.tcdivRcp (sw.setWidth 15)) (decide (sw.toInt ≤ 0))
    exec (.tcDivPersp ss st sw) m = .next { m with ret := .coords19 (axis ss) (axis st) } := rfl

/-- Settles O30: `perspAxis_emod` and `perspAxis_marks` for each axis, and `tcClamp17_toInt`. -/
theorem coordinateDivideAndClamp : Obligations.CoordinateDivideAndClamp := by
  unfold Obligations.CoordinateDivideAndClamp
  refine ⟨fun m ss st sw =>
      ⟨⟨_, _, rfl, nonperspAxis_toNat ss, nonperspAxis_toNat st⟩, _, _, exec_tcDivPersp ss st sw m, ?_⟩,
    fun m c => ⟨_, rfl, tcClamp17_toInt c⟩⟩
  intro e axis
  have haxis : ∀ c, axis c (perspAxis c e (decide (sw.toInt ≤ 0))) := fun c => by
    obtain ⟨h17, h18⟩ := perspAxis_marks c e (decide (sw.toInt ≤ 0))
    rw [decide_eq_true_eq] at h18
    exact ⟨perspAxis_emod c e _, h17, h18⟩
  exact ⟨haxis ss, haxis st⟩

/-! ### Shift (R270) -/

/-- A left shift that keeps the top bit's weight positive multiplies, modulo the width. -/
theorem toInt_shiftLeft_eq_bmod {n k : Nat} (v : BitVec n) (hk : k + 1 < n) :
    (v <<< k).toInt = (v.toInt * 2 ^ k).bmod (2 ^ n) := by
  rw [BitVec.shiftLeft_eq_mul_twoPow, BitVec.toInt_mul, BitVec.toInt_twoPow, if_neg (by omega), if_neg (by omega)]

/-- `TC_SHIFT`: right below 11, left from 11. -/
theorem tcShift_toInt (c : BitVec 16) (shift : BitVec 4) (sh : BitVec 12) : (tcShift c shift sh).1.toInt =
    if shift.toNat < 11 then c.toInt / 2 ^ shift.toNat else (c.toInt * 2 ^ (16 - shift.toNat)).bmod 0x10000 := by
  unfold tcShift
  rw [BitVec.toInt_signExtend_of_le (by decide)]
  split
  · rw [BitVec.toInt_sshiftRight, (shiftRight_eq_ediv c.toInt shift.toNat).1]
  · exact toInt_shiftLeft_eq_bmod c (by omega)

/-- The coordinate is past the tile. -/
theorem tcShift_atEnd (c : BitVec 16) (shift : BitVec 4) (sh : BitVec 12) :
    (tcShift c shift sh).2 = true ↔ (sh.toNat : Int) ≤ (tcShift c shift sh).1.toInt / 8 := by
  unfold tcShift
  rw [BitVec.toInt_signExtend_of_le (by decide), decide_eq_true_eq]

/-! ### Clamp (R271) -/

theorem texelIndex_toInt (c : BitVec 17) : (texelIndex c).toInt = c.toInt / 32 := by
  have hlt := c.isLt
  unfold texelIndex
  rw [BitVec.toInt_extractLsb', Nat.shiftRight_eq_div_pow, BitVec.toInt_eq_toNat_bmod]
  simp only [Int.bmod_def]
  split <;> split <;> omega

/-- `TC_CLAMP` clamps at the end of the tile, at its start, or not at all. -/
theorem tcClamp_cases (c : BitVec 17) (frac : BitVec 5) (atEnd clampen : Bool) (clampdiff : BitVec 10) :
    let x := tcClamp c frac atEnd clampen clampdiff
    if clampen = true ∧ atEnd = true then x.1.toNat = clampdiff.toNat ∧ x.2 = 0
    else if clampen = true ∧ c.toInt < 0 then x.1 = 0 ∧ x.2 = 0
    else x.1.toInt = c.toInt / 32 ∧ x.2 = frac := by
  have hsign : c.getLsbD 16 = decide (c.toInt < 0) := c.msb_eq_getLsbD_last.symm.trans BitVec.msb_eq_toInt
  unfold tcClamp
  rw [hsign]
  cases clampen
  · exact ⟨texelIndex_toInt c, rfl⟩
  cases atEnd
  · by_cases hneg : c.toInt < 0
    · simp [hneg]
    · simp [hneg, texelIndex_toInt]
  · exact ⟨BitVec.toNat_setWidth_of_le (by decide), rfl⟩

/-! ### Mask (R272 to R274) -/

/-- The width of the range a mask keeps (R272). -/
def maskRange (mask : BitVec 4) : Nat := 2 ^ min mask.toNat 10

theorem maskbits_toNat : ∀ mask : BitVec 4, (maskbits mask).toNat = maskRange mask - 1 := by
  decide

/-- What masking leaves of a coordinate, whose complement a mirrored repetition takes. -/
def maskFold (c : BitVec 12) (mask : BitVec 4) (wrap : Bool) : BitVec 12 := (if wrap then ~~~c else c) &&& maskbits mask

theorem maskRange_dvd (mask : BitVec 4) : (maskRange mask : Int) ∣ 2 ^ 12 := by
  unfold maskRange
  push_cast
  exact pow_dvd_pow 2 (show min mask.toNat 10 ≤ 12 by omega)

theorem and_maskbits_toNat (c : BitVec 12) (mask : BitVec 4) :
    ((c &&& maskbits mask).toNat : Int) = c.toInt % maskRange mask := by
  have h : (c &&& maskbits mask).toNat = c.toNat % maskRange mask := by
    rw [BitVec.toNat_and, maskbits_toNat]
    exact Nat.and_two_pow_sub_one_eq_mod _ _
  rw [h]
  push_cast
  rw [toNat_eq_toInt_emod, Int.emod_emod_of_dvd _ (maskRange_dvd mask)]

theorem neg_sub_one_emod (x : Int) {w : Int} (hw : 0 < w) : (-x - 1) % w = w - 1 - x % w := by
  have h := Int.emod_add_mul_ediv x w
  have h0 := Int.emod_nonneg x hw.ne'
  have h1 := Int.emod_lt_of_pos x hw
  have e : -x - 1 = (w - 1 - x % w) + w * (-(x / w) - 1) := by linarith
  rw [e, Int.add_mul_emod_self_left, Int.emod_eq_of_lt (by omega) (by omega)]

theorem not_toInt (c : BitVec 12) : (~~~c).toInt = -c.toInt - 1 := by
  have hlt := c.isLt
  rw [BitVec.toInt_not, BitVec.toInt_eq_toNat_bmod, Int.bmod_def, Int.bmod_def]
  split <;> split <;> omega

theorem maskRange_pos (mask : BitVec 4) : 0 < maskRange mask := Nat.two_pow_pos _

theorem maskRange_le (mask : BitVec 4) : maskRange mask ≤ 1024 :=
  Nat.pow_le_pow_right (by decide) (Nat.min_le_right mask.toNat 10)

/-- A repetition is the coordinate modulo the range, a mirrored one runs backwards (R273). -/
theorem maskFold_toNat (c : BitVec 12) (mask : BitVec 4) (wrap : Bool) : ((maskFold c mask wrap).toNat : Int) =
    if wrap then maskRange mask - 1 - c.toInt % maskRange mask else c.toInt % maskRange mask := by
  cases wrap
  · exact and_maskbits_toNat c mask
  · exact (and_maskbits_toNat (~~~c) mask).trans (by
      rw [not_toInt, neg_sub_one_emod _ (by exact_mod_cast maskRange_pos mask), if_pos rfl])

theorem wrapBit_eq (c : BitVec 12) (n : BitVec 4) : wrapBit c n = decide (c.toInt / 2 ^ n.toNat % 2 = 1) := by
  have h := toNat_eq_toInt_emod (c.sshiftRight n.toNat)
  rw [BitVec.toInt_sshiftRight, (shiftRight_eq_ediv c.toInt n.toNat).1] at h
  unfold wrapBit
  rw [getLsbD_eq_decide]
  exact decide_eq_decide.2 (by omega)

/-- The repetition a coordinate is in is mirrored. -/
def mirrored (c : BitVec 12) (mirror : Bool) (maskclamped : BitVec 4) : Bool := mirror && wrapBit c maskclamped

theorem mirrored_iff (c : BitVec 12) (mirror : Bool) (maskclamped : BitVec 4) :
    mirrored c mirror maskclamped = true ↔ mirror = true ∧ c.toInt / 2 ^ maskclamped.toNat % 2 = 1 := by
  unfold mirrored
  rw [Bool.and_eq_true, wrapBit_eq, decide_eq_true_eq]

theorem tcMask_eq (c : BitVec 12) {mask : BitVec 4} (mirror : Bool) (maskclamped : BitVec 4) (h : mask ≠ 0) :
    tcMask c mask mirror maskclamped = maskFold c mask (mirrored c mirror maskclamped) := if_neg h

/-- `TC_MASK_COUPLED` masks as `TC_MASK` does. -/
theorem tcMaskCoupled_fst (c : BitVec 12) (mask : BitVec 4) (mirror : Bool) (maskclamped : BitVec 4) :
    (tcMaskCoupled c mask mirror maskclamped).1 = tcMask c mask mirror maskclamped := by
  unfold tcMaskCoupled tcMask
  cases mirror <;> split <;> rfl

theorem maskFold_lt (c : BitVec 12) (mask : BitVec 4) (wrap : Bool) : (maskFold c mask wrap).toNat < maskRange mask := by
  have hpos := maskRange_pos mask
  have h0 := Int.emod_nonneg c.toInt (b := maskRange mask) (by omega)
  have h1 := Int.emod_lt_of_pos c.toInt (b := maskRange mask) (by omega)
  have h := maskFold_toNat c mask wrap
  split at h <;> omega

/-- The last coordinate of the range is where every bit under the mask is set. -/
theorem and_maskbits_eq_iff (x : BitVec 12) (mask : BitVec 4) :
    x &&& maskbits mask = maskbits mask ↔ x.toInt % maskRange mask = maskRange mask - 1 := by
  have hpos := maskRange_pos mask
  have h := and_maskbits_toNat x mask
  rw [← BitVec.toNat_inj, maskbits_toNat]
  omega

/-- The step of a mirrored tile: towards the neighbour, and 0 where the next repetition begins (R274). -/
theorem tcMaskCoupled_mirror_snd {c : BitVec 12} {mask maskclamped : BitVec 4} {wrap : Bool} (h : mask ≠ 0)
    (hwrap : wrapBit c maskclamped = wrap) : (tcMaskCoupled c mask true maskclamped).2 =
      if (maskFold c mask wrap - if wrap then 1 else 0) &&& maskbits mask = maskbits mask then 0 else if wrap then -1 else 1 := by
  subst hwrap
  unfold tcMaskCoupled
  rw [if_neg h]
  rfl

/-- The step in a mirrored repetition: back, but 0 at its first texel (R274). -/
theorem tcMaskCoupled_snd_of_odd {c : BitVec 12} {mask maskclamped : BitVec 4} {mirror : Bool} (h : mask ≠ 0)
    (hodd : mirrored c mirror maskclamped = true) :
    (tcMaskCoupled c mask mirror maskclamped).2.toInt = if (tcMask c mask mirror maskclamped).toNat = 0 then 0 else -1 := by
  obtain ⟨rfl, hwrap⟩ := Bool.and_eq_true_iff.1 hodd
  rw [tcMask_eq c _ _ h, hodd, tcMaskCoupled_mirror_snd h hwrap]
  have hlt := maskFold_lt c mask true
  have hle := maskRange_le mask
  generalize maskFold c mask true = x at hlt
  have hback : (x - 1).toInt = x.toNat - 1 := by
    have hone : (1 : BitVec 12).toInt = 1 := rfl
    rw [BitVec.toInt_sub, BitVec.toInt_eq_toNat_bmod, hone]
    simp only [Int.bmod_def]
    split <;> split <;> omega
  have hseam : (x - 1) &&& maskbits mask = maskbits mask ↔ x.toNat = 0 := by
    rw [and_maskbits_eq_iff, hback]
    rcases Nat.eq_zero_or_pos x.toNat with h0 | h0
    · have := neg_sub_one_emod 0 (w := maskRange mask) (by omega)
      rw [Int.zero_emod] at this
      rw [h0]
      exact iff_of_true (this.trans (by omega)) rfl
    · rw [Int.emod_eq_of_lt (by omega) (by omega)]
      omega
  simp only [if_true, hseam]
  exact apply_ite BitVec.toInt _ _ _

/-- Elsewhere the step is forward, but 0 or back to 0 at the last texel (R274). -/
theorem tcMaskCoupled_snd_of_even {c : BitVec 12} {mask maskclamped : BitVec 4} {mirror : Bool} (h : mask ≠ 0)
    (heven : mirrored c mirror maskclamped = false) :
    (tcMaskCoupled c mask mirror maskclamped).2.toInt =
      if ((tcMask c mask mirror maskclamped).toNat : Int) = maskRange mask - 1 then
        (if mirror then 0 else -((tcMask c mask mirror maskclamped).toNat : Int)) else 1 := by
  rw [tcMask_eq c _ _ h, heven]
  have hlt := maskFold_lt c mask false
  have hle := maskRange_le mask
  cases mirror with
  | true =>
    rw [tcMaskCoupled_mirror_snd h heven]
    generalize maskFold c mask false = x at hlt
    have hseam : (x - 0) &&& maskbits mask = maskbits mask ↔ (x.toNat : Int) = maskRange mask - 1 := by
      have hzero : x - 0 = x := BitVec.sub_zero x
      rw [hzero, and_maskbits_eq_iff, BitVec.toInt_eq_toNat_of_lt (by omega), Int.emod_eq_of_lt (by omega) (by omega)]
    simp only [Bool.false_eq_true, if_false, hseam, if_true]
    exact apply_ite BitVec.toInt _ _ _
  | false =>
    have hsnd : (tcMaskCoupled c mask false maskclamped).2 = let x := maskFold c mask false
        if x = maskbits mask then (-x).setWidth 11 else 1 := by
      unfold tcMaskCoupled
      rw [if_neg h]
      rfl
    rw [hsnd]
    generalize maskFold c mask false = x at hlt
    have hlast : x = maskbits mask ↔ (x.toNat : Int) = maskRange mask - 1 := by
      rw [← BitVec.toNat_inj, maskbits_toNat]
      omega
    have hback : ((-x).setWidth 11).toInt = -(x.toNat : Int) := by
      rw [BitVec.toInt_setWidth, BitVec.toNat_neg, Int.bmod_def]
      split <;> omega
    simp only [hlast, Bool.false_eq_true, if_false]
    split
    · exact hback
    · rfl

/-- Settles O31: the lemmas on `tcShift`, `tcClamp`, and on each kind of repetition of the mask. -/
theorem coordinateShiftClampMask : Obligations.CoordinateShiftClampMask := by
  unfold Obligations.CoordinateShiftClampMask
  refine ⟨fun m c shift sh => ⟨_, _, rfl, tcShift_toInt c shift sh, tcShift_atEnd c shift sh⟩,
    fun m c frac atEnd clampen clampdiff => ⟨_, _, rfl, tcClamp_cases c frac atEnd clampen clampdiff⟩,
    fun m c mask mirror maskclamped => ⟨_, _, _, rfl, rfl, tcMaskCoupled_fst c mask mirror maskclamped, ?_⟩⟩
  intro w odd
  have hw : w = maskRange mask := by
    unfold maskRange
    push_cast
    rfl
  have hodd : odd ↔ mirrored c mirror maskclamped = true := (mirrored_iff c mirror maskclamped).symm
  rw [hw, hodd]
  refine ⟨?_, fun h hm => ⟨?_, tcMaskCoupled_snd_of_odd h hm⟩, fun h hm => ?_⟩
  · rintro rfl
    exact ⟨rfl, rfl⟩
  · rw [tcMask_eq c _ _ h, maskFold_toNat, if_pos hm]
  · rw [Bool.not_eq_true] at hm
    refine ⟨?_, tcMaskCoupled_snd_of_even h hm⟩
    rw [tcMask_eq c _ _ h, maskFold_toNat, hm]
    rfl

/-! ### Filter arms (R277 to R280) -/

/-- A texel is four integers cut to nine bits. -/
theorem isTexel_ofInt (r g b a : Int) :
    IsTexel ⟨BitVec.ofInt 9 r, BitVec.ofInt 9 g, BitVec.ofInt 9 b, BitVec.ofInt 9 a⟩ r g b a :=
  ⟨toNat_ofInt_eq_emod 9 r, toNat_ofInt_eq_emod 9 g, toNat_ofInt_eq_emod 9 b, toNat_ofInt_eq_emod 9 a⟩

/-- The value of one channel of `ARM_LERP` (R278): the mean of the taps at the centre, else one of the two triangles. -/
def lerpValue (mid : Bool) (sf tf q0 q1 q2 q3 : Int) : Int :=
  if mid = true ∧ sf = 16 ∧ tf = 16 then q3 + (64 * (q0 + q1 + q2 - 3 * q3) + 128) / 256
  else if 32 ≤ sf + tf then q3 + ((32 - sf) * (q2 - q3) + (32 - tf) * (q1 - q3) + 16) / 32
  else q0 + (sf * (q1 - q0) + tf * (q2 - q0) + 16) / 32

theorem lerpCenter_iff (mid : Bool) (sf tf : BitVec 5) :
    lerpCenter mid sf tf = true ↔ mid = true ∧ (sf.toNat : Int) = 16 ∧ (tf.toNat : Int) = 16 := by
  have h : ∀ f : BitVec 5, (f == 0x10) = true ↔ (f.toNat : Int) = 16 := by decide
  unfold lerpCenter
  rw [Bool.and_eq_true, Bool.and_eq_true, h, h, and_assoc]

theorem upperTriangle_iff (sf tf : BitVec 5) : upperTriangle sf tf = true ↔ (32 : Int) ≤ sf.toNat + tf.toNat := by
  unfold upperTriangle
  rw [decide_eq_true_eq]
  exact_mod_cast Iff.rfl

theorem shiftRight_eight (v : Int) : v >>> (8 : Nat) = v / 256 ∧ v >>> (8 : Int) = v / 256 := shiftRight_eq_ediv v 8

theorem lerpChannel_eq (mid : Bool) (sf tf : BitVec 5) (q0 q1 q2 q3 : Int) :
    lerpChannel (lerpCenter mid sf tf) (upperTriangle sf tf) sf tf q0 q1 q2 q3 =
      BitVec.ofInt 9 (lerpValue mid sf.toNat tf.toNat q0 q1 q2 q3) := by
  have hmean : (q1 + q2) * 64 - q3 * 128 + (-q3 - 1 + q0) * 64 + 0xC0 = 64 * (q0 + q1 + q2 - 3 * q3) + 128 := by ring
  unfold lerpChannel lerpValue
  simp only [lerpCenter_iff, upperTriangle_iff, correctShifts, shiftRight_eight, hmean]

/-- The chroma fraction is half the fraction, plus a half in the second texel of a pair (R278). -/
theorem chromaFrac_toNat (sfrac : BitVec 5) (odd : Bool) :
    (chromaFrac sfrac odd).toNat = sfrac.toNat / 2 + if odd then 16 else 0 := by
  have hhalf : (sfrac.extractLsb' 1 4).toNat = sfrac.toNat / 2 := by
    have hlt := sfrac.isLt
    rw [BitVec.extractLsb'_toNat, Nat.shiftRight_eq_div_pow]
    omega
  unfold chromaFrac
  rw [toNat_append_eq_add, hhalf, Nat.add_comm]
  cases odd <;> rfl

/-- `ARM_LERP` (R278): a YUV tile's chroma is signed and has its own fraction. -/
theorem armLerp_isTexel (mid : Bool) (q : Quad) (sfrac tfrac : BitVec 5) (odd yuv : Bool) :
    let sfRg : Int := if yuv then (sfrac.toNat / 2 : Int) + (if odd then 16 else 0) else sfrac.toNat
    let rg := fun (f : Color 9 → BitVec 9) =>
      let v := fun (c : Color 9) => if yuv then (f c).toInt else ((f c).toNat : Int)
      lerpValue mid sfRg tfrac.toNat (v q.q0) (v q.q1) (v q.q2) (v q.q3)
    let ba := fun (f : Color 9 → BitVec 9) =>
      lerpValue mid sfrac.toNat tfrac.toNat (f q.q0).toNat (f q.q1).toNat (f q.q2).toNat (f q.q3).toNat
    IsTexel (armLerp mid q sfrac tfrac odd yuv) (rg Color.r) (rg Color.g) (ba Color.b) (ba Color.a) := by
  have hchroma : ((chromaFrac sfrac odd).toNat : Int) = (sfrac.toNat / 2 : Int) + if odd then 16 else 0 := by
    rw [chromaFrac_toNat]
    push_cast
    rfl
  unfold armLerp
  simp only [lerpChannel_eq]
  cases yuv
  · exact isTexel_ofInt _ _ _ _
  · simp only [if_true, hchroma]
    exact isTexel_ofInt _ _ _ _

/-- `ARM_LERP_CONVERT` (R279): the previous texel's chroma weighs the taps. -/
theorem armLerpConvert_isTexel (prev : Color 9) (q : Quad) (upper : Bool) :
    let conv := fun (f : Color 9 → BitVec 9) =>
      let v := fun (c : Color 9) => ((f c).toNat : Int)
      (prev.b.toNat : Int) +
        (if upper then prev.r.toInt * (v q.q2 - v q.q3) + prev.g.toInt * (v q.q1 - v q.q3) + 128
         else prev.r.toInt * (v q.q1 - v q.q0) + prev.g.toInt * (v q.q2 - v q.q0) + 128) / 256
    IsTexel (armLerpConvert prev q upper) (conv Color.r) (conv Color.g) (conv Color.b) (conv Color.a) := by
  unfold armLerpConvert lerpConvertChannel
  simp only [shiftRight_eight]
  cases upper <;> exact isTexel_ofInt _ _ _ _

/-- The conversion of R280. -/
theorem State.yuvConvert_isTexel (m : State) (u v y : BitVec 9) :
    let k := m.gs.sca
    IsTexel (m.yuvConvert u v y) (y.toNat + (k.k0.toInt * v.toInt + 128) / 256)
      (y.toNat + (k.k1.toInt * u.toInt + k.k2.toInt * v.toInt + 128) / 256)
      (y.toNat + (k.k3.toInt * u.toInt + 128) / 256) y.toNat := by
  have hluma : (y.toNat : Int) = y.toNat % 512 := by omega
  unfold State.yuvConvert
  simp only [shiftRight_eight]
  exact ⟨toNat_ofInt_eq_emod 9 _, toNat_ofInt_eq_emod 9 _, toNat_ofInt_eq_emod 9 _, hluma⟩

/-- Settles O32: one lemma per arm. -/
theorem filterArms : Obligations.FilterArms := by
  unfold Obligations.FilterArms
  exact ⟨fun m prev q0 => ⟨rfl, rfl⟩,
    fun m prev q sfrac tfrac odd yuv upper => ⟨_, _, rfl, rfl, armLerp_isTexel _ q sfrac tfrac odd yuv,
      armLerpConvert_isTexel prev q upper⟩,
    fun m prev q0 q convert upper upperRg => ⟨_, _, rfl, rfl, m.yuvConvert_isTexel _ _ _, m.yuvConvert_isTexel _ _ _⟩⟩

end Sys2Proof.Machine

end

section

namespace Sys2Proof.Machine

variable {m : State} {prev q0 : Color 9} {q : Quad} {sss sst : BitVec 16} {n : BitVec 3} {cycle : Bool}

/-! ### The texture cycle (R276) -/

/-- An operation that returns a value into the latch answered with that value. -/
theorem ok_of_retOf_next {α : Type} {mk : α → Ret} (hmk : mk.Injective) {x : Except Refusal α} {v : α}
    (h : retOf m mk x = .next (m.setRet (mk v))) : x = .ok v := by
  cases x with
  | error e => cases h
  | ok u =>
    have hret : mk u = mk v := congrArg State.ret (Host.Outcome.next.inj h)
    rw [hmk hret]

theorem tmemFetch1_of_next {a b : BitVec 13} (h : exec (.tmemFetch1 n a b) m = .next { m with ret := .texel q0 }) :
    m.tmemFetch1 n a b = .ok q0 := ok_of_retOf_next (fun _ _ => Ret.texel.inj) h

theorem tmemFetchQuad_of_next {a b : BitVec 13} {da db : BitVec 11} {upper : Bool}
    (h : exec (.tmemFetchQuad n a da b db upper) m = .next { m with ret := .quad q }) :
    m.tmemFetchQuad n a da b db upper = .ok q := ok_of_retOf_next (fun _ _ => Ret.quad.inj) h

/-- The clamped coordinate of an axis with its fraction, by the shift, the bounds and the clamp of the tile (R270, R271). -/
def clampedAxis (c : BitVec 16) (shift : BitVec 4) (hi lo : BitVec 12) (clampen : Bool) (diff : BitVec 10) :
    BitVec 12 × BitVec 5 :=
  let x := tileRelative (tcShift c shift hi).1 lo
  tcClamp x (x.setWidth 5) (tcShift c shift hi).2 clampen diff

def Tile.clampedS (t : Tile) (c : BitVec 16) : BitVec 12 × BitVec 5 :=
  clampedAxis c t.shiftS t.sh t.sl t.clampens t.clampdiffs

def Tile.clampedT (t : Tile) (c : BitVec 16) : BitVec 12 × BitVec 5 :=
  clampedAxis c t.shiftT t.th t.tl t.clampent t.clampdifft

def Tile.coupledS (t : Tile) (c : BitVec 16) : BitVec 12 × BitVec 11 :=
  tcMaskCoupled (t.clampedS c).1 t.maskS t.ms t.masksclamped

def Tile.coupledT (t : Tile) (c : BitVec 16) : BitVec 12 × BitVec 11 :=
  tcMaskCoupled (t.clampedT c).1 t.maskT t.mt t.masktclamped

/-- `bi_lerp` and `convert` of a cycle (R276). -/
def State.biLerp (m : State) (cycle : Bool) : Bool := if cycle then Om.biLerp1 m.gs.om else Om.biLerp0 m.gs.om

def State.convert (m : State) (cycle : Bool) : Bool := Om.convertOne m.gs.om && cycle

/-- The quad of the four-tap path. -/
def State.fourTaps (m : State) (sss sst : BitVec 16) (n : BitVec 3) : Except Refusal Quad :=
  let t := m.tile n
  m.tmemFetchQuad n ((t.coupledS sss).1.signExtend 13) (t.coupledS sss).2 ((t.coupledT sst).1.signExtend 13) (t.coupledT sst).2
    (upperTriangle (t.clampedS sss).2 (t.clampedT sst).2)

/-- The arm of the four-tap path, from the two fractions, the parity of the texel and whether the tile is YUV. -/
def State.fourTapArm (m : State) (prev : Color 9) (q : Quad) (sf tf : BitVec 5) (odd yuv cycle : Bool) : Color 9 :=
  let upper := upperTriangle sf tf
  if m.biLerp cycle then
    if m.convert cycle then armLerpConvert prev q upper else armLerp (Om.midTexel m.gs.om) q sf tf odd yuv
  else m.armYuv4 prev q (m.convert cycle) upper (if yuv then upperTriangle (chromaFrac sf odd) tf else upper)

theorem State.texCycle_fourTaps (prev : Color 9) (cycle : Bool)
    (hpath : (Om.sampleType m.gs.om || Om.enTlut m.gs.om) = true) (hq : m.fourTaps sss sst n = .ok q) :
    m.texCycle prev sss sst n cycle = .ok (let t := m.tile n
      m.fourTapArm prev q (t.clampedS sss).2 (t.clampedT sst).2 ((t.coupledS sss).1.getLsbD 0) t.isYuv cycle) := by
  unfold State.fourTaps Tile.coupledS Tile.coupledT Tile.clampedS Tile.clampedT clampedAxis at hq
  unfold State.texCycle
  simp only [hpath, if_true, hq]
  rfl

/-- The masked coordinate of an axis of the point-sample path, clamped without a fraction. -/
def pointAxis (c : BitVec 16) (shift : BitVec 4) (hi lo : BitVec 12) (clampen : Bool) (diff : BitVec 10) (mask : BitVec 4)
    (mirror : Bool) (maskclamped : BitVec 4) : BitVec 13 :=
  (tcMask (tcClamp (tileRelative (tcShift c shift hi).1 lo) 0 (tcShift c shift hi).2 clampen diff).1
    mask mirror maskclamped).signExtend 13

/-- The texel of the point-sample path. -/
def State.pointTap (m : State) (sss sst : BitVec 16) (n : BitVec 3) : Except Refusal (Color 9) :=
  let t := m.tile n
  m.tmemFetch1 n (pointAxis sss t.shiftS t.sh t.sl t.clampens t.clampdiffs t.maskS t.ms t.masksclamped)
    (pointAxis sst t.shiftT t.th t.tl t.clampent t.clampdifft t.maskT t.mt t.masktclamped)

/-- The arm of the point-sample path. -/
def State.pointArm (m : State) (prev q0 : Color 9) (cycle : Bool) : Color 9 :=
  if m.biLerp cycle then if m.convert cycle then armPointConvert prev else armPoint q0
  else m.armYuv1 prev q0 (m.convert cycle)

theorem State.texCycle_point (prev : Color 9) (cycle : Bool)
    (hpath : (Om.sampleType m.gs.om || Om.enTlut m.gs.om) = false) (hq0 : m.pointTap sss sst n = .ok q0) :
    m.texCycle prev sss sst n cycle = .ok (m.pointArm prev q0 cycle) := by
  unfold State.pointTap pointAxis at hq0
  unfold State.texCycle
  simp only [hpath, Bool.false_eq_true, if_false, hq0]
  rfl

theorem Tile.isYuv_eq (t : Tile) : t.isYuv = decide (t.format = 1) := rfl

theorem exec_texCycle {c : Color 9} (h : m.texCycle prev sss sst n cycle = .ok c) :
    exec (.texCycle prev sss sst n cycle) m = .next (m.setRet (.texel c)) := congrArg (retOf m .texel) h

/-- An arm's result comes under the choice of the arm. -/
theorem next_arm (bilerp convert : Bool) (x y z : Color 9) :
    (.next (m.setRet (.texel (if bilerp then if convert then x else y else z))) : Result) =
      if bilerp then if convert then .next (m.setRet (.texel x)) else .next (m.setRet (.texel y))
      else .next (m.setRet (.texel z)) := by
  cases bilerp
  · rfl
  · cases convert <;> rfl

theorem upperTriangle_chromaFrac (sf tf : BitVec 5) (odd : Bool) : upperTriangle (chromaFrac sf odd) tf =
    decide (32 ≤ sf.toNat / 2 + (if odd then 16 else 0) + tf.toNat) := by
  unfold upperTriangle
  rw [chromaFrac_toNat]

/-- Settles O33: the fetch of each path, then the arm that `bi_lerp` and `convert_one` select. -/
theorem texCycleSelectsArm : Obligations.TexCycleSelectsArm := by
  unfold Obligations.TexCycleSelectsArm
  refine ⟨fun m prev q0 sss sst n cycle => ?_, fun m prev q sss sst n cycle => ?_⟩
  · intro t axis bilerp convert hsample htlut hfetch
    have hpath : (Om.sampleType m.gs.om || Om.enTlut m.gs.om) = false := by rw [hsample, htlut]; rfl
    have htap : m.pointTap sss sst n = .ok q0 := tmemFetch1_of_next hfetch
    exact (exec_texCycle (State.texCycle_point prev cycle hpath htap)).trans (next_arm _ _ _ _ _)
  · intro t clamp cs ct ms mt upper bilerp convert odd yuv upperRg hpath hfetch
    have htaps : m.fourTaps sss sst n = .ok q := tmemFetchQuad_of_next hfetch
    have hodd : ms.1.getLsbD 0 = odd := by
      rw [getLsbD_eq_decide, pow_zero, Nat.div_one]
    have hcycle := State.texCycle_fourTaps prev cycle ((Bool.or_eq_true _ _).mpr hpath) htaps
    have harm : m.fourTapArm prev q cs.2 ct.2 (ms.1.getLsbD 0) t.isYuv cycle =
        if bilerp then if convert then armLerpConvert prev q upper else armLerp (Om.midTexel m.gs.om) q cs.2 ct.2 odd yuv
        else m.armYuv4 prev q convert upper upperRg := by
      rw [hodd, Tile.isYuv_eq]
      unfold State.fourTapArm
      rw [upperTriangle_chromaFrac]
      rfl
    exact (exec_texCycle (hcycle.trans (congrArg Except.ok harm))).trans (next_arm _ _ _ _ _)

end Sys2Proof.Machine

end

section

namespace Sys2Proof.Machine

variable {m : State} {cur : Coord2} {o : TexOperands} {g : LodSignals} {n : BitVec 3}

/-! ### Level of detail: the tiles (R284, R286) -/

/-- The integer part of a sum of two accumulators. -/
theorem integerPart_add (a b : Word) :
    (a + b).extractLsb' 16 16 = BitVec.ofInt 16 ((a.toInt + b.toInt) / 0x10000) := by
  have ha := toInt_emod a
  have hb := toInt_emod b
  have hsum := toNat_ofInt_eq_emod 16 ((a.toInt + b.toInt) / 0x10000)
  rw [← BitVec.toNat_inj, BitVec.extractLsb'_toNat, Nat.shiftRight_eq_div_pow, BitVec.toNat_add]
  omega

/-- The signals of a pixel come from its own coordinates and those of its two neighbours (R284). -/
theorem State.lodPixel_eq (m : State) (cur : Coord2) (o : TexOperands) :
    let wrap := fun (a b : Word) => BitVec.ofInt 16 ((a.toInt + b.toInt) / 0x10000)
    let v := lodValue cur (m.tcDiv (wrap o.s o.dsinc) (wrap o.t o.dtinc) (wrap o.w o.dwinc))
      (m.tcDiv (wrap o.s m.gs.slopes.dsdy) (wrap o.t m.gs.slopes.dtdy) (wrap o.w m.gs.slopes.dwdy))
    m.lodPixel cur o = m.lodSignals v.1 v.2 := by
  unfold State.lodPixel State.tcDivAcc
  simp only [integerPart_add]

/-- The fraction of both cycle types: the old one while LOD is not needed. -/
def State.newLodFrac (m : State) (cur : Coord2) (o : TexOperands) : BitVec 9 :=
  if m.gs.der.dolod then (m.lodPixel cur o).lodFrac else m.gs.sca.lodFrac

/-- The first tile while LOD selects tiles: one further in detail mode, unless the texture is magnified. -/
def State.firstTile (m : State) (g : LodSignals) (n : BitVec 3) : BitVec 3 :=
  if !Om.detailTexEn m.gs.om || g.magnify then n + m.lodLevel g else n + m.lodLevel g + 1

/-- The second tile while LOD selects tiles. -/
def State.secondTile (m : State) (g : LodSignals) (n : BitVec 3) : BitVec 3 :=
  if !Om.detailTexEn m.gs.om then
    if g.distant || (!Om.sharpenTexEn m.gs.om && g.magnify) then n + m.lodLevel g else n + m.lodLevel g + 1
  else if !g.distant && !g.magnify then n + m.lodLevel g + 2 else n + m.lodLevel g + 1

/-- While LOD selects no tile, both cycle types use the command's tile and the one after it. -/
theorem lodCycles_idle (h : m.gs.der.dolod = false ∨ Om.texLodEn m.gs.om = false) :
    m.lod1cycle cur o = ⟨tcClamp17 cur.s, tcClamp17 cur.t, o.tilenum, m.newLodFrac cur o⟩ ∧
    m.lod2cycle cur o = ⟨tcClamp17 cur.s, tcClamp17 cur.t, o.tilenum, o.tilenum + 1, m.newLodFrac cur o⟩ := by
  unfold State.lod1cycle State.lod2cycle State.newLodFrac
  cases hlod : m.gs.der.dolod
  · exact ⟨rfl, rfl⟩
  · have htex : Om.texLodEn m.gs.om = false := h.resolve_left (by rw [hlod]; decide)
    rw [htex]
    exact ⟨rfl, rfl⟩

/-- Otherwise they use the tiles of the pixel's signals. -/
theorem lodCycles_active (hlod : m.gs.der.dolod = true) (htex : Om.texLodEn m.gs.om = true)
    (hg : m.lodPixel cur o = g) :
    m.lod1cycle cur o = ⟨tcClamp17 cur.s, tcClamp17 cur.t, m.firstTile g o.tilenum, m.newLodFrac cur o⟩ ∧
    m.lod2cycle cur o = ⟨tcClamp17 cur.s, tcClamp17 cur.t, m.firstTile g o.tilenum, m.secondTile g o.tilenum,
      m.newLodFrac cur o⟩ := by
  constructor
  · simp only [State.lod1cycle, State.newLodFrac, State.firstTile, hlod, htex, hg, if_true]
  · simp only [State.lod2cycle, State.newLodFrac, State.firstTile, State.secondTile, hlod, htex, hg, if_true]
    cases Om.detailTexEn m.gs.om <;> rfl

/-- `max_level` takes the place of the level of a distant pixel (R284). -/
theorem lodLevel_toNat (m : State) (g : LodSignals) : (m.lodLevel g).toNat =
    if g.distant then m.gs.misc.maxLevel.toNat else g.lTile.toNat := apply_ite BitVec.toNat _ _ _

/-- A tile number is taken modulo 8; here `k` further than a level from `n`. -/
theorem tile_toNat (n level k : BitVec 3) : (n + level + k).toNat = (n.toNat + level.toNat + k.toNat) % 8 := by
  rw [BitVec.toNat_add, BitVec.toNat_add]
  omega

theorem firstTile_eq (m : State) (g : LodSignals) (n : BitVec 3) : m.firstTile g n =
    n + m.lodLevel g + if Om.detailTexEn m.gs.om = true ∧ g.magnify = false then 1 else 0 := by
  unfold State.firstTile
  cases Om.detailTexEn m.gs.om <;> cases g.magnify <;> simp

theorem secondTile_plain {g : LodSignals} (n : BitVec 3) (h : Om.detailTexEn m.gs.om = false) : m.secondTile g n =
    n + m.lodLevel g + if g.distant = true ∨ (Om.sharpenTexEn m.gs.om = false ∧ g.magnify = true) then 0 else 1 := by
  unfold State.secondTile
  simp [h, add_ite]

theorem secondTile_detail {g : LodSignals} (n : BitVec 3) (h : Om.detailTexEn m.gs.om = true) : m.secondTile g n =
    n + m.lodLevel g + if g.distant = false ∧ g.magnify = false then 2 else 1 := by
  unfold State.secondTile
  simp [h, add_ite]

theorem exec_lod1cycle {sss sst : BitVec 19} {l : Lod1} (h : m.lod1cycle ⟨sss, sst⟩ o = l) :
    exec (.lod1cycle sss sst o) m = .next (m.setRet (.lod1 l.sss l.sst l.tile l.lodFrac)) := by
  subst h
  rfl

theorem exec_lod2cycle {sss sst : BitVec 19} {l : Lod2} (h : m.lod2cycle ⟨sss, sst⟩ o = l) :
    exec (.lod2cycle sss sst o) m = .next (m.setRet (.lod2 l.sss l.sst l.tile1 l.tile2 l.lodFrac)) := by
  subst h
  rfl

theorem exec_lodCopy {sss sst : BitVec 19} (h : Om.texLodEn m.gs.om = false) :
    exec (.lodCopy sss sst n) m = .next { m with ret := .lodCopy (tcClamp17 sss) (tcClamp17 sst) n } :=
  congrArg (retOf m fun l : LodC => .lodCopy l.sss l.sst l.tile) (if_neg (by rw [h]; decide))

/-- Settles O35: both cycle types by `lodCycles_idle` or `lodCycles_active`, and the tile numbers modulo 8. -/
theorem levelOfDetailSelectsTiles : Obligations.LevelOfDetailSelectsTiles := by
  unfold Obligations.LevelOfDetailSelectsTiles
  intro m sss sst o
  have hpixel := m.lodPixel_eq ⟨sss, sst⟩ o
  by_cases hidle : m.gs.der.dolod = false ∨ Om.texLodEn m.gs.om = false
  · obtain ⟨h1, h2⟩ := lodCycles_idle (cur := ⟨sss, sst⟩) (o := o) hidle
    refine ⟨_, _, _, _, exec_lod1cycle h1, exec_lod2cycle h2, exec_lodCopy,
      fun h => if_neg (by rw [h]; decide), fun h => (if_pos h).trans (congrArg LodSignals.lodFrac hpixel),
      fun _ => ⟨rfl, rfl, BitVec.toNat_add _ _⟩, fun hlod htex => ?_⟩
    rw [hlod, htex] at hidle
    exact absurd hidle (by decide)
  · obtain ⟨hlod, htex⟩ := not_or.1 hidle
    rw [Bool.not_eq_false] at hlod htex
    obtain ⟨h1, h2⟩ := lodCycles_active hlod htex hpixel
    refine ⟨_, _, _, _, exec_lod1cycle h1, exec_lod2cycle h2, exec_lodCopy,
      fun h => if_neg (by rw [h]; decide), fun h => (if_pos h).trans (congrArg LodSignals.lodFrac hpixel),
      fun h => absurd h hidle, fun _ _ => ⟨?_, rfl, fun hdet => ?_, fun hdet => ?_⟩⟩
    · rw [firstTile_eq, tile_toNat, lodLevel_toNat, apply_ite BitVec.toNat]
      rfl
    · rw [secondTile_plain _ hdet, tile_toNat, lodLevel_toNat, apply_ite BitVec.toNat]
      rfl
    · rw [secondTile_detail _ hdet, tile_toNat, lodLevel_toNat, apply_ite BitVec.toNat]
      rfl

end Sys2Proof.Machine

end

section

namespace Sys2Proof.Machine

variable {m : State} {lod : BitVec 15} {clamped : Bool}

/-! ### Level of detail: the value (R282) -/

/-- The distance of two coordinates; a negative difference counts as its complement (R282). -/
def coordDistance (a b : BitVec 19) : Int :=
  let d := (b.toNat : Int).bmod 0x20000 - (a.toNat : Int).bmod 0x20000
  if d < 0 then -d - 1 else d

theorem coordDistance_bounds (a b : BitVec 19) : 0 ≤ coordDistance a b ∧ coordDistance a b < 0x20000 := by
  unfold coordDistance
  simp only [Int.bmod_def]
  omega

theorem lodAxis_toNat (a b : BitVec 19) : ((lodAxis a b).toNat : Int) = coordDistance a b := by
  have hcoord : ∀ c : BitVec 19, ((c.setWidth 17).signExtend 18).toInt = (c.toNat : Int).bmod 0x20000 := fun c => by
    rw [BitVec.toInt_signExtend_of_le (by decide), BitVec.toInt_setWidth]
  unfold lodAxis
  generalize hd : (b.setWidth 17).signExtend 18 - (a.setWidth 17).signExtend 18 = d
  have hint : d.toInt = (b.toNat : Int).bmod 0x20000 - (a.toNat : Int).bmod 0x20000 := by
    rw [← hd, BitVec.toInt_sub, hcoord, hcoord]
    simp only [Int.bmod_def]
    omega
  have hsign : d.getLsbD 17 = decide (d.toInt < 0) := d.msb_eq_getLsbD_last.symm.trans BitVec.msb_eq_toInt
  have hnot : (~~~d &&& 0x1FFFF).toNat = (2 ^ 18 - 1 - d.toNat) % 2 ^ 17 := by
    rw [BitVec.toNat_and, BitVec.toNat_not]
    exact Nat.and_two_pow_sub_one_eq_mod _ 17
  have hnat := toNat_eq_toInt_emod d
  have hbounds := coordDistance_bounds a b
  unfold coordDistance at hbounds ⊢
  rw [← hint] at hbounds ⊢
  simp only [hsign, decide_eq_true_eq]
  simp only at hbounds ⊢
  split
  · rw [hnot]
    omega
  · omega

theorem maxBv_toNat {w : Nat} (a b : BitVec w) : (maxBv a b).toNat = max a.toNat b.toNat := by
  unfold maxBv
  rw [apply_ite BitVec.toNat]
  simp only [BitVec.lt_def]
  split <;> omega

/-- `v` stands for the distance `far`: it is `far` below 0x4000, and has bit 14 from there on. -/
def IsDistance (v : BitVec 15) (far : Int) : Prop :=
  (far < 0x4000 → (v.toNat : Int) = far) ∧ (0x4000 ≤ far → 0x4000 ≤ v.toNat)

/-- A distance cut to 15 bits with bit 14 set when a higher bit is lost (R282). -/
theorem isDistance_cut {d : BitVec 18} {prev : BitVec 15} {near far : Int} (h : IsDistance prev far)
    (hprev : prev.toNat ≤ d.toNat) (hd : (d.toNat : Int) = max near prev.toNat) (hlt : d.toNat < 0x20000) :
    IsDistance (if d &&& 0x1C000 ≠ 0 then d.setWidth 15 ||| 0x4000 else d.setWidth 15) (max near far) := by
  obtain ⟨hnear, hbeyond⟩ := h
  have htop : d &&& 0x1C000 = 0 ↔ d.toNat < 0x4000 := by
    have hand : (d &&& 0x1C000).toNat = d.toNat / 2 ^ 14 % 2 ^ 3 * 2 ^ 14 := and_field d.toNat 3 14
    have hzero : (0 : BitVec 18).toNat = 0 := rfl
    rw [← BitVec.toNat_inj, hand, hzero]
    omega
  by_cases hsmall : d.toNat < 0x4000
  · rw [if_neg (not_not.2 (htop.2 hsmall)), IsDistance, BitVec.toNat_setWidth]
    omega
  · have hset : 0x4000 ≤ (d.setWidth 15 ||| 0x4000).toNat := by
      rw [BitVec.toNat_or]
      exact Nat.right_le_or
    rw [if_pos (mt htop.1 hsmall)]
    exact ⟨fun h => by omega, fun _ => hset⟩

theorem lodDelta_isDistance {prev : BitVec 15} {far : Int} (a b : Coord2) (h : IsDistance prev far) :
    IsDistance (lodDelta a b prev) (max (max (coordDistance a.s b.s) (coordDistance a.t b.t)) far) := by
  have hs := coordDistance_bounds a.s b.s
  have ht := coordDistance_bounds a.t b.t
  have hprev := prev.isLt
  have hd : ((maxBv (maxBv (lodAxis a.s b.s) (lodAxis a.t b.t)) (prev.setWidth 18)).toNat : Int) =
      max (max (coordDistance a.s b.s) (coordDistance a.t b.t)) prev.toNat := by
    rw [maxBv_toNat, maxBv_toNat, BitVec.toNat_setWidth_of_le (by decide), ← lodAxis_toNat, ← lodAxis_toNat]
    push_cast
    rfl
  exact isDistance_cut h (by omega) hd (by omega)

theorem coordMarked_eq (c : BitVec 19) : coordMarked c = decide (0x20000 ≤ c.toNat) := by
  have hand : (c &&& 0x60000).toNat = c.toNat / 2 ^ 17 % 2 ^ 2 * 2 ^ 17 := and_field c.toNat 2 17
  have hzero : (0 : BitVec 19).toNat = 0 := rfl
  unfold coordMarked
  rw [decide_eq_decide, Ne, ← BitVec.toNat_inj, hand, hzero]
  omega

/-- Either coordinate has an over- or underflow mark (R282). -/
def Coord2.marked (c : Coord2) : Prop := 0x20000 ≤ c.s.toNat ∨ 0x20000 ≤ c.t.toNat

theorem lodClamp_iff (cur nextx nexty : Coord2) :
    lodClamp cur nextx nexty = true ↔ cur.marked ∨ nextx.marked ∨ nexty.marked := by
  unfold lodClamp Coord2.marked
  simp only [coordMarked_eq, Bool.or_eq_true, decide_eq_true_eq, or_assoc]

/-- Without marks the value is the largest distance to a neighbour (R282). -/
theorem lodValue_isDistance {cur nextx nexty : Coord2} (h : lodClamp cur nextx nexty = false) :
    IsDistance (lodValue cur nextx nexty).1
      (max (max (coordDistance cur.s nextx.s) (coordDistance cur.t nextx.t))
        (max (coordDistance cur.s nexty.s) (coordDistance cur.t nexty.t))) := by
  have hstart : IsDistance 0 0 := ⟨fun _ => rfl, fun h => absurd h (by decide)⟩
  have hdelta := lodDelta_isDistance cur nexty (lodDelta_isDistance cur nextx hstart)
  have hnonneg := (coordDistance_bounds cur.s nextx.s).1
  rw [max_eq_left (le_max_of_le_left hnonneg), max_comm] at hdelta
  unfold lodValue
  rw [h]
  exact hdelta

/-! ### Level of detail: the signals (R281, R282) -/

/-- The highest set bit of a number that has one, by its index. -/
theorem topBitIndex_spec {n v : Nat} (hv : 0 < v) (hlt : v < 2 ^ n) :
    topBitIndex n v < n ∧ 2 ^ topBitIndex n v ≤ v ∧ v < 2 * 2 ^ topBitIndex n v := by
  induction n with
  | zero => omega
  | succ n ih =>
    unfold topBitIndex
    by_cases h : 2 ^ n ≤ v
    · rw [if_pos (Nat.testBit_of_two_pow_le_and_two_pow_add_one_gt h hlt)]
      exact ⟨n.lt_succ_self, h, by rwa [← Nat.pow_succ']⟩
    · rw [if_neg (by rw [Nat.testBit_lt_two_pow (by omega)]; decide)]
      obtain ⟨hidx, htop⟩ := ih (by omega)
      exact ⟨by omega, htop⟩

theorem log2t_spec {v : BitVec 8} (hv : v.toNat ≠ 0) :
    2 ^ (log2t v).toNat ≤ v.toNat ∧ v.toNat < 2 * 2 ^ (log2t v).toNat := by
  obtain ⟨hidx, htop⟩ := topBitIndex_spec (n := 8) (by omega : 0 < v.toNat) v.isLt
  unfold log2t
  rwa [BitVec.toNat_ofNat, Nat.mod_eq_of_lt hidx]

/-- A value of 0x4000 or more, or a marked one, is past every level (R282). -/
theorem lodSignals_far (h : 0x4000 ≤ lod.toNat ∨ clamped = true) : m.lodSignals lod clamped = ⟨7, false, true, 0xFF⟩ := by
  have htop : (lod.getLsbD 14 || clamped) = true := by
    rw [getLsbD_eq_decide, Bool.or_eq_true, decide_eq_true_eq]
    exact h.imp_left (by omega)
  unfold State.lodSignals
  rw [htop]
  rfl

/-- Neither sharpen nor detail mode. -/
def State.plainLod (m : State) : Bool := !Om.sharpenTexEn m.gs.om && !Om.detailTexEn m.gs.om

theorem State.plainLod_iff (m : State) :
    m.plainLod = true ↔ Om.sharpenTexEn m.gs.om = false ∧ Om.detailTexEn m.gs.om = false := by
  unfold State.plainLod
  rw [Bool.and_eq_true, Bool.not_eq_true', Bool.not_eq_true']

/-- The fraction of a magnified pixel (R282). -/
def State.nearFrac (m : State) (lod : BitVec 15) : BitVec 9 :=
  let v : BitVec 9 := if lod.toNat < m.gs.sca.minLevel.toNat then m.gs.sca.minLevel.setWidth 9 else lod.setWidth 9
  if m.plainLod then (if m.gs.misc.maxLevel == 0 then 0xFF else 0)
  else (v <<< 3) ||| (if Om.sharpenTexEn m.gs.om then 0x100 else 0)

theorem unclamped_low (h : lod.toNat < 0x4000) : (lod.getLsbD 14 || false) = false := by
  rw [Bool.or_false]
  exact Nat.testBit_lt_two_pow h

/-- A value below 32 magnifies (R282). -/
theorem lodSignals_near (h : lod.toNat < 32) :
    m.lodSignals lod false = ⟨0, true, m.gs.misc.maxLevel == 0, m.nearFrac lod⟩ := by
  have hlt : lod < 32 := h
  unfold State.lodSignals
  simp only [unclamped_low (by omega : lod.toNat < 0x4000), hlt, Bool.false_eq_true, if_false, if_true]
  rfl

/-- The level of a value from 32 on (R282). -/
def levelOf (lod : BitVec 15) : BitVec 3 := log2t (lod.extractLsb' 5 8)

/-- A pixel past the last level (R282). -/
def State.lodDistant (m : State) (lod : BitVec 15) : Bool :=
  m.gs.misc.maxLevel == 0 || decide (lod &&& 0x6000 ≠ 0) || decide (m.gs.misc.maxLevel ≤ levelOf lod)

/-- The fraction within a level (R282). -/
def State.levelFrac (m : State) (lod : BitVec 15) : BitVec 9 :=
  if m.plainLod && m.lodDistant lod then 0xFF else BitVec.ofNat 9 ((lod.toNat * 8 / 2 ^ (levelOf lod).toNat) % 256)

theorem lodSignals_level (hlo : 32 ≤ lod.toNat) (hhi : lod.toNat < 0x4000) :
    m.lodSignals lod false = ⟨levelOf lod, false, m.lodDistant lod, m.levelFrac lod⟩ := by
  have hge : ¬ lod < 32 := Nat.not_lt.2 hlo
  unfold State.lodSignals
  simp only [unclamped_low hhi, hge, Bool.false_eq_true, if_false]
  rfl

theorem nearFrac_plain (h : m.plainLod = true) :
    (m.nearFrac lod).toNat = if m.gs.misc.maxLevel.toNat = 0 then 0xFF else 0 := by
  have hzero : (m.gs.misc.maxLevel == 0) = decide (m.gs.misc.maxLevel.toNat = 0) := decide_eq_decide.2 BitVec.toNat_inj.symm
  unfold State.nearFrac
  rw [h, if_pos rfl, hzero, apply_ite BitVec.toNat]
  simp only [decide_eq_true_eq]
  rfl

theorem nearFrac_scaled (h : m.plainLod = false) (hlod : lod.toNat < 32) : (m.nearFrac lod).toNat =
    8 * max m.gs.sca.minLevel.toNat lod.toNat + if Om.sharpenTexEn m.gs.om then 0x100 else 0 := by
  have hmin := m.gs.sca.minLevel.isLt
  unfold State.nearFrac
  rw [h, if_neg Bool.false_ne_true]
  generalize hv : (if lod.toNat < m.gs.sca.minLevel.toNat then m.gs.sca.minLevel.setWidth 9 else lod.setWidth 9) = v
  have hmax : v.toNat = max m.gs.sca.minLevel.toNat lod.toNat := by
    rw [← hv, apply_ite BitVec.toNat, BitVec.toNat_setWidth, BitVec.toNat_setWidth]
    split <;> omega
  have hshift : (v <<< 3).toNat = 8 * v.toNat := by
    rw [BitVec.toNat_shiftLeft, Nat.shiftLeft_eq]
    omega
  rw [BitVec.toNat_or, hshift, ← hmax]
  cases Om.sharpenTexEn m.gs.om
  · exact Nat.or_zero _
  · have hor := Nat.two_pow_add_eq_or_of_lt (i := 8) (b := 8 * v.toNat) (by omega) 1
    rw [Nat.or_comm]
    exact hor.symm.trans (Nat.add_comm _ _)

theorem lodDistant_iff (hhi : lod.toNat < 0x4000) : m.lodDistant lod = true ↔
    m.gs.misc.maxLevel.toNat ≤ (levelOf lod).toNat ∨ 0x2000 ≤ lod.toNat := by
  have hand : (lod &&& 0x6000).toNat = lod.toNat / 2 ^ 13 % 2 ^ 2 * 2 ^ 13 := and_field lod.toNat 2 13
  have hzero : (0 : BitVec 15).toNat = 0 := rfl
  have hzero3 : (0 : BitVec 3).toNat = 0 := rfl
  unfold State.lodDistant
  rw [Bool.or_eq_true, Bool.or_eq_true, beq_iff_eq, decide_eq_true_eq, decide_eq_true_eq, Ne, ← BitVec.toNat_inj,
    ← BitVec.toNat_inj, hand, hzero, hzero3, BitVec.le_def]
  omega

theorem levelFrac_toNat : (m.levelFrac lod).toNat =
    if m.plainLod = true ∧ m.lodDistant lod = true then 0xFF else 8 * lod.toNat / 2 ^ (levelOf lod).toNat % 256 := by
  unfold State.levelFrac
  have hlt := Nat.mod_lt (lod.toNat * 8 / 2 ^ (levelOf lod).toNat) (by decide : 256 > 0)
  rw [apply_ite BitVec.toNat, BitVec.toNat_ofNat, Nat.mod_eq_of_lt (by omega), Nat.mul_comm lod.toNat 8]
  simp only [Bool.and_eq_true]
  rfl

/-- The level of a value is the highest set bit of its bits 12 to 5 (R281). -/
theorem levelOf_spec (lod : BitVec 15) : (lod.toNat / 32 % 256 = 0 → levelOf lod = 0) ∧
    (lod.toNat / 32 % 256 ≠ 0 →
      2 ^ (levelOf lod).toNat ≤ lod.toNat / 32 % 256 ∧ lod.toNat / 32 % 256 < 2 * 2 ^ (levelOf lod).toNat) := by
  have hv : (lod.extractLsb' 5 8).toNat = lod.toNat / 32 % 256 := by
    rw [BitVec.extractLsb'_toNat, Nat.shiftRight_eq_div_pow]
  unfold levelOf
  rw [← hv]
  refine ⟨fun h => ?_, log2t_spec⟩
  unfold log2t
  rw [h]
  rfl

/-- Settles O36: the value by `lodValue_isDistance`, the signals by the range of the value. -/
theorem lodValueAndSignals : Obligations.LodValueAndSignals := by
  unfold Obligations.LodValueAndSignals
  refine ⟨fun cur nextx nexty => ?_, fun m lod clamped => ?_⟩
  · intro marked dist far
    have hmark : (lodValue cur nextx nexty).2 = lodClamp cur nextx nexty := rfl
    rw [hmark]
    exact ⟨lodClamp_iff cur nextx nexty, fun h => if_pos h, lodValue_isDistance⟩
  · intro g plain maxLevel l
    have hfar : 0x4000 ≤ l ∨ clamped = true → g = ⟨7, false, true, 0xFF⟩ := lodSignals_far
    have hnear : l < 32 → clamped = false → g = ⟨0, true, m.gs.misc.maxLevel == 0, m.nearFrac lod⟩ := by
      rintro h rfl
      exact lodSignals_near h
    have hlevel : 32 ≤ l → l < 0x4000 → clamped = false →
        g = ⟨levelOf lod, false, m.lodDistant lod, m.levelFrac lod⟩ := by
      rintro hlo hhi rfl
      exact lodSignals_level hlo hhi
    refine ⟨fun h => ?_, fun h hc => ?_, fun h hc => ?_, fun hlo hhi hc => ?_⟩
    · rw [hfar h]
      exact ⟨rfl, rfl, rfl, rfl⟩
    · by_cases h32 : l < 32
      · rw [hnear h32 hc]
        exact iff_of_true rfl h32
      · rw [hlevel (Nat.not_lt.1 h32) h hc]
        exact iff_of_false Bool.false_ne_true h32
    · rw [hnear h hc]
      exact ⟨rfl, beq_iff_eq.trans BitVec.toNat_inj.symm, fun hp => nearFrac_plain (m.plainLod_iff.2 hp),
        fun hp => nearFrac_scaled (Bool.eq_false_iff.2 (mt m.plainLod_iff.1 hp)) h⟩
    · obtain ⟨hzero, htop⟩ := levelOf_spec lod
      rw [hlevel hlo hhi hc]
      exact ⟨hzero, htop, lodDistant_iff hhi, levelFrac_toNat.trans (if_congr (and_congr_left' m.plainLod_iff) rfl rfl)⟩

end Sys2Proof.Machine

end

/-! ## The texture memory family: texel addresses, formats and the lookup table (`43_texture_memory.md`)

Every address of R301 is a signed texel offset, reduced and swapped: `texelOffset_toInt` says the offset as an integer and
`swapped_toNat` that the exclusive-or with the swap is `rowSwap` of the reduced offset. Reads and expansions then follow by
their numbers, one lemma for each address and one for each conversion; the table index is one of those reads for each size. -/

section

namespace Sys2Proof.Machine

variable (m : State) (t : Tile) (s row : BitVec 13)

/-! ### The swap of odd rows (R301) -/

/-- One more unit of `w` above the same remainder. -/
theorem eq_add_of_div_eq_succ {a b w : Nat} (hdiv : b / w = a / w + 1) (hmod : b % w = a % w) : b = a + w := by
  rw [← Nat.div_add_mod b w, hdiv, hmod, Nat.mul_succ, Nat.add_right_comm, Nat.div_add_mod]

/-- The exclusive-or with one bit adds or takes its weight. -/
theorem xor_two_pow (a j : Nat) : a ^^^ 2 ^ j = if a / 2 ^ j % 2 = 0 then a + 2 ^ j else a - 2 ^ j := by
  have hdiv : (a ^^^ 2 ^ j) / 2 ^ j = a / 2 ^ j ^^^ 1 := by rw [Nat.xor_div_two_pow, Nat.div_self (Nat.two_pow_pos j)]
  have hmod : (a ^^^ 2 ^ j) % 2 ^ j = a % 2 ^ j := by rw [Nat.xor_mod_two_pow, Nat.mod_self, Nat.xor_zero]
  split
  · next h => exact eq_add_of_div_eq_succ (hdiv.trans (Nat.xor_one_of_even (Nat.even_iff.2 h))) hmod
  · next h =>
    have hodd : Odd (a / 2 ^ j) := Nat.odd_iff.2 (Nat.mod_two_ne_zero.1 h)
    rw [Nat.xor_one_of_odd hodd] at hdiv
    have hsucc : a / 2 ^ j = (a ^^^ 2 ^ j) / 2 ^ j + 1 := by rw [hdiv, Nat.sub_add_cancel hodd.pos]
    exact Nat.eq_sub_of_add_eq (eq_add_of_div_eq_succ hsucc hmod.symm).symm

/-- The low bit of a coordinate is set when it is odd. -/
theorem lowBit_iff (v : BitVec 13) : v.getLsbD 0 = true ↔ ¬ v.toInt % 2 = 0 := by
  have h := toNat_eq_toInt_emod v
  rw [getLsbD_eq_decide, decide_eq_true_eq]
  omega

theorem rowSwap_eq_xor (j a : Nat) : rowSwap row (2 ^ j) a = a ^^^ if row.getLsbD 0 then 2 ^ j else 0 := by
  unfold rowSwap
  simp only [lowBit_iff, ite_not]
  split
  · exact (Nat.xor_zero a).symm
  · exact (xor_two_pow a j).symm

/-- The swap stays in the range of the address. -/
theorem rowSwap_lt {row : BitVec 13} {j k a : Nat} (hjk : j < k) (ha : a < 2 ^ k) : rowSwap row (2 ^ j) a < 2 ^ k := by
  rw [rowSwap_eq_xor]
  refine Nat.xor_lt_two_pow ha ?_
  split
  · exact Nat.pow_lt_pow_right (by decide) hjk
  · exact Nat.two_pow_pos k

/-- The swap acts on the address after its reduction too. -/
theorem rowSwap_mod {row : BitVec 13} {j k : Nat} (a : Nat) (hjk : j < k) :
    rowSwap row (2 ^ j) a % 2 ^ k = rowSwap row (2 ^ j) (a % 2 ^ k) := by
  rw [rowSwap_eq_xor, rowSwap_eq_xor, Nat.xor_mod_two_pow]
  split
  · rw [Nat.mod_eq_of_lt (Nat.pow_lt_pow_right (by decide) hjk)]
  · rw [Nat.zero_mod]

/-- An address of `k` bits with the swap `w` of bit `j` is the swapped offset modulo `2 ^ k`. -/
theorem swapped_toNat {row : BitVec 13} {k j : Nat} (x w : Word) (hw : w.toNat = if row.getLsbD 0 then 2 ^ j else 0)
    (hjk : j < k) (hk : k ≤ 32) {a : Int} (ha : x.toInt = a) {mask : Word} (hmask : mask.toNat = 2 ^ k - 1) :
    ((x ^^^ w) &&& mask).toNat = rowSwap row (2 ^ j) (a % 2 ^ k).toNat := by
  have hx : (a % 2 ^ k).toNat = x.toNat % 2 ^ k := by
    have hdvd : (2 : Int) ^ k ∣ 2 ^ 32 := pow_dvd_pow 2 hk
    rw [← ha, ← Int.emod_emod_of_dvd _ hdvd, ← toNat_eq_toInt_emod x]
    exact_mod_cast Int.toNat_natCast (x.toNat % 2 ^ k)
  rw [BitVec.toNat_and, BitVec.toNat_xor, hw, hmask, Nat.and_two_pow_sub_one_eq_mod, ← rowSwap_eq_xor, rowSwap_mod _ hjk, hx]

theorem swap8_toNat : (swap8 row).toNat = if row.getLsbD 0 then 2 ^ 2 else 0 := apply_ite BitVec.toNat _ _ _

theorem swap16_toNat : (swap16 row).toNat = if row.getLsbD 0 then 2 ^ 1 else 0 := apply_ite BitVec.toNat _ _ _

/-! ### Addresses (R301) -/

theorem coord_toInt (v : BitVec 13) : (coord v).toInt = v.toInt := BitVec.toInt_signExtend_of_le (by decide)

theorem rowBase_bounds : -(2 ^ 21) ≤ rowBase t row ∧ rowBase t row < 2 ^ 22 := by
  have hline := t.line.isLt
  have htmem := t.tmem.isLt
  have hlo := row.le_toInt
  have hhi := row.toInt_lt
  norm_num at hlo hhi
  unfold rowBase
  constructor <;> norm_num <;> nlinarith

/-- No bit of the base of a row is lost in 32 bits. -/
theorem tbase_toInt : (tbase t row).toInt = rowBase t row := by
  have hfield : ∀ v : BitVec 9, (v.setWidth 32).toInt = v.toNat := fun v => by
    have hv := v.isLt
    rw [BitVec.toInt_setWidth]
    exact Int.bmod_eq_of_le (by omega) (by omega)
  have hbounds := rowBase_bounds t row
  unfold tbase
  rw [BitVec.toInt_add, BitVec.toInt_mul, coord_toInt, hfield, hfield, Int.bmod_add_bmod]
  exact Int.bmod_eq_of_le (by unfold rowBase at hbounds; omega) (by unfold rowBase at hbounds; omega)

/-- No bit of a texel offset is lost in 32 bits. -/
theorem texelOffset_toInt {k : Nat} (hk : k ≤ 4) : ((tbase t row <<< k) + coord s).toInt = 2 ^ k * rowBase t row + s.toInt := by
  have hbounds := rowBase_bounds t row
  have hlo := s.le_toInt
  have hhi := s.toInt_lt
  rw [BitVec.toInt_add, toInt_shiftLeft_eq_bmod _ (by omega), coord_toInt, tbase_toInt, Int.bmod_add_bmod, mul_comm]
  interval_cases k <;> exact Int.bmod_eq_of_le (by omega) (by omega)

/-- The offset of a pair of texels. -/
theorem texelOffset_half {k : Nat} (hk : k ≤ 4) :
    (((tbase t row <<< k) + coord s).sshiftRight 1).toInt = (2 ^ k * rowBase t row + s.toInt) / 2 := by
  rw [sshiftRight_toInt, texelOffset_toInt t s row hk, pow_one]

theorem addr4_toNat : (addr4 t s row).toNat = rowSwap row 4 ((16 * rowBase t row + s.toInt) / 2 % 0x1000).toNat :=
  swapped_toNat (k := 12) _ _ (swap8_toNat row) (by decide) (by decide) (texelOffset_half t s row (k := 4) (by decide)) rfl

theorem addr8_toNat : (addr8 t s row).toNat = rowSwap row 4 ((8 * rowBase t row + s.toInt) % 0x1000).toNat :=
  swapped_toNat (k := 12) _ _ (swap8_toNat row) (by decide) (by decide) (texelOffset_toInt t s row (k := 3) (by decide)) rfl

theorem addr16_toNat : (addr16 t s row).toNat = unitIndex 0x800 t s row :=
  swapped_toNat (k := 11) _ _ (swap16_toNat row) (by decide) (by decide) (texelOffset_toInt t s row (k := 2) (by decide)) rfl

theorem addr32_toNat : (addr32 t s row).toNat = unitIndex 0x400 t s row :=
  swapped_toNat (k := 10) _ _ (swap16_toNat row) (by decide) (by decide) (texelOffset_toInt t s row (k := 2) (by decide)) rfl

theorem addrChroma_toNat : (addrChroma t s row).toNat = chromaIndex t s row :=
  swapped_toNat (k := 10) _ _ (swap16_toNat row) (by decide) (by decide) (texelOffset_half t s row (k := 3) (by decide)) rfl

/-- A one above `k` bits is an offset. -/
theorem or_two_pow_of_lt {a k : Nat} (h : a < 2 ^ k) : a ||| 2 ^ k = a + 2 ^ k := by
  rw [Nat.or_comm, ← Nat.mul_one (2 ^ k), ← Nat.two_pow_add_eq_or_of_lt h, Nat.add_comm]

/-- A luma lies in the high half, at the place of its texel in 0x800 bytes (R313). -/
theorem addrLuma_toNat : (addrLuma t s row).toNat = rowSwap row 4 ((8 * rowBase t row + s.toInt) % 0x800).toNat + 0x800 := by
  have hlow := swapped_toNat (k := 11) (mask := 0x7FF) _ _ (swap8_toNat row) (by decide) (by decide)
    (texelOffset_toInt t s row (k := 3) (by decide)) rfl
  unfold addrLuma
  rw [BitVec.toNat_or, hlow]
  exact or_two_pow_of_lt (k := 11) (rowSwap_lt (by decide) (by omega))

theorem unitIndex_lt : unitIndex 0x400 t s row < 0x400 :=
  rowSwap_lt (j := 1) (k := 10) (by decide) (by omega)

/-- The same texel in the high half (R318). -/
theorem addr32_high_toNat : (addr32 t s row ||| 0x400).toNat = unitIndex 0x400 t s row + 0x400 := by
  rw [BitVec.toNat_or, addr32_toNat]
  exact or_two_pow_of_lt (k := 10) (unitIndex_lt t s row)

/-! ### Reads (R90, R301) -/

theorem State.tmem8_eq {i : Word} {a : Nat} (h : i.toNat = a) (ha : a < 0x1000) : m.tmem8 i = m.tmemByte a := by
  unfold State.tmem8
  rw [h]
  exact congrArg m.tmemByte (Nat.mod_eq_of_lt ha)

theorem State.tmem16_toNat {i : Word} {u : Nat} (h : i.toNat = u) (hu : u < 0x800) : (m.tmem16 i).toNat = unitAt m u := by
  have hmod : i.toNat % (Config.tmemBytes / 2) = u := by rw [h]; exact Nat.mod_eq_of_lt hu
  unfold State.tmem16 unitAt
  rw [toNat_append_eq_add, hmod, Nat.mul_comm]
  rfl

theorem texByte_toNat : (m.tmem8 (addr8 t s row)).toNat = byteAt m t s row :=
  congrArg BitVec.toNat (m.tmem8_eq (addr8_toNat t s row) (rowSwap_lt (j := 2) (k := 12) (by decide) (by omega)))

theorem nibbleOf_toNat (b : Byte) (s : BitVec 13) :
    (nibbleOf b s).toNat = if s.toInt % 2 = 0 then b.toNat / 16 else b.toNat % 16 := by
  have hb := b.isLt
  unfold nibbleOf
  simp only [lowBit_iff, ite_not, apply_ite BitVec.toNat, BitVec.extractLsb'_toNat, Nat.shiftRight_eq_div_pow]
  split <;> omega

theorem texNibble_toNat : (m.texNibble t s row).toNat = nibbleAt m t s row := by
  unfold State.texNibble nibbleAt
  rw [nibbleOf_toNat, m.tmem8_eq (addr4_toNat t s row) (rowSwap_lt (j := 2) (k := 12) (by decide) (by omega))]

theorem texUnit_toNat : (m.tmem16 (addr16 t s row)).toNat = unitAt m (unitIndex 0x800 t s row) :=
  m.tmem16_toNat (addr16_toNat t s row) (rowSwap_lt (j := 1) (k := 11) (by decide) (by omega))

theorem texLow_toNat : (m.tmem16 (addr32 t s row)).toNat = unitAt m (unitIndex 0x400 t s row) :=
  m.tmem16_toNat (addr32_toNat t s row) ((unitIndex_lt t s row).trans (by decide))

theorem texHigh_toNat : (m.tmem16 (addr32 t s row ||| 0x400)).toNat = unitAt m (unitIndex 0x400 t s row + 0x400) :=
  m.tmem16_toNat (addr32_high_toNat t s row) (Nat.add_lt_add_right (unitIndex_lt t s row) 0x400)

theorem texChroma_toNat : (m.tmem16 (addrChroma t s row)).toNat = unitAt m (chromaIndex t s row) :=
  m.tmem16_toNat (addrChroma_toNat t s row)
    ((rowSwap_lt (j := 1) (k := 10) (by decide) (by omega)).trans (by decide))

theorem texLuma_eq : m.tmem8 (addrLuma t s row) =
    m.tmemByte (rowSwap row 4 ((8 * rowBase t row + s.toInt) % 0x800).toNat + 0x800) :=
  m.tmem8_eq (addrLuma_toNat t s row)
    (Nat.add_lt_add_right (rowSwap_lt (j := 2) (k := 11) (by decide) (by omega)) 0x800)

/-! ### Expansion (R306) -/

theorem texel8_isTexel {r g b a : BitVec 8} {x y z w : Int} (hr : r.toNat = x) (hg : g.toNat = y) (hb : b.toNat = z)
    (ha : a.toNat = w) : IsTexel (texel8 r g b a) x y z w := by
  have hchannel : ∀ {v : BitVec 8} {k : Int}, v.toNat = k → ((v.setWidth 9).toNat : Int) = k % 512 := fun {v k} h => by
    have hv := v.isLt
    rw [BitVec.toNat_setWidth]
    omega
  exact ⟨hchannel hr, hchannel hg, hchannel hb, hchannel ha⟩

theorem texelGrey_isTexel {v : BitVec 8} {x : Int} (h : v.toNat = x) : IsTexel (texelGrey v) x x x x :=
  texel8_isTexel h h h h

theorem rep4_toNat (v : BitVec 4) : (rep4 v).toNat = 17 * v.toNat := by
  unfold rep4
  rw [toNat_append_eq_add]
  omega

theorem rep5_toNat (v : BitVec 5) : (rep5 v).toNat = 8 * v.toNat + v.toNat / 4 := by
  have hv := v.isLt
  unfold rep5
  rw [toNat_append_eq_add, BitVec.extractLsb'_toNat, Nat.shiftRight_eq_div_pow]
  omega

theorem highByte_toNat (c : BitVec 16) : (c.extractLsb' 8 8).toNat = c.toNat / 256 := by
  have hc := c.isLt
  rw [BitVec.extractLsb'_toNat, Nat.shiftRight_eq_div_pow]
  omega

theorem lowByte_toNat (c : BitVec 16) : (c.extractLsb' 0 8).toNat = c.toNat % 256 := BitVec.extractLsb'_toNat _ _ _

/-- An alpha bit covers all of its channel. -/
theorem alphaBit_toNat {k : Nat} (c : BitVec k) :
    ((if c.getLsbD 0 then 0xFF else 0 : BitVec 8).toNat : Int) = if c.toNat % 2 = 1 then 255 else 0 := by
  rw [getLsbD_eq_decide, Nat.pow_zero, Nat.div_one]
  simp only [decide_eq_true_eq]
  split <;> rfl

theorem texelRgba16_isRgba16 {c : BitVec 16} {v : Nat} (h : c.toNat = v) : IsRgba16 (texelRgba16 c) v := by
  have hc := c.isLt
  subst h
  have hrep : ∀ {k x : Nat}, c.toNat / 2 ^ k % 2 ^ 5 = x → ((rep5 (c.extractLsb' k 5)).toNat : Int) = 8 * x + x / 4 :=
    fun {k x} hx => by
      rw [rep5_toNat, BitVec.extractLsb'_toNat, Nat.shiftRight_eq_div_pow, hx]
      push_cast
      rfl
  exact texel8_isTexel (hrep (Nat.mod_eq_of_lt (by omega))) (hrep rfl) (hrep rfl) (alphaBit_toNat c)

theorem texelPair_isPair {c : BitVec 16} {v : Nat} (h : c.toNat = v) : IsPair (texelPair c) v := by
  subst h
  have hi : ((c.extractLsb' 8 8).toNat : Int) = c.toNat / 256 := congrArg Nat.cast (highByte_toNat c)
  exact texel8_isTexel hi (congrArg Nat.cast (lowByte_toNat c)) hi (alphaBit_toNat c)

theorem texelIa16_isTexel {c : BitVec 16} {v : Nat} (h : c.toNat = v) :
    IsTexel (texelIa16 c) (v / 256) (v / 256) (v / 256) (v % 256) := by
  subst h
  have hi : ((c.extractLsb' 8 8).toNat : Int) = c.toNat / 256 := congrArg Nat.cast (highByte_toNat c)
  exact texel8_isTexel hi hi hi (congrArg Nat.cast (lowByte_toNat c))

/-- A chroma byte is a signed value with its middle at 128 (R313). -/
theorem chroma_toNat (b : BitVec 8) : (((b ^^^ 0x80).signExtend 9).toNat : Int) = (b.toNat - 128) % 512 := by
  have hb := b.isLt
  have hxor : (b ^^^ 0x80).toNat = if b.toNat / 2 ^ 7 % 2 = 0 then b.toNat + 2 ^ 7 else b.toNat - 2 ^ 7 := xor_two_pow b.toNat 7
  have hsigned : (b ^^^ 0x80).toInt = b.toNat - 128 := by
    rw [BitVec.toInt_eq_toNat_cond, hxor]
    split <;> omega
  rw [toNat_eq_toInt_emod, BitVec.toInt_signExtend_of_le (by decide), hsigned]
  rfl

/-! ### The arms without TLUT (R308 to R325) -/

theorem fetchGrey4_isTexel : IsTexel (m.fetchGrey4 t s row)
    (17 * nibbleAt m t s row) (17 * nibbleAt m t s row) (17 * nibbleAt m t s row) (17 * nibbleAt m t s row) :=
  texelGrey_isTexel (by rw [rep4_toNat, texNibble_toNat]; push_cast; rfl)

theorem fetchGrey8_isTexel : IsTexel (m.fetchGrey8 t s row)
    (byteAt m t s row) (byteAt m t s row) (byteAt m t s row) (byteAt m t s row) :=
  texelGrey_isTexel (congrArg Nat.cast (texByte_toNat m t s row))

theorem fetchCi4_isTexel :
    let p : Int := 16 * t.palette.toNat + nibbleAt m t s row
    IsTexel (m.fetchCi4 t s row) p p p p :=
  texelGrey_isTexel (by rw [toNat_append_eq_add, texNibble_toNat]; push_cast; rfl)

/-- IA 4: three bits of intensity repeated over the channel and an alpha bit (R319). -/
theorem fetchIa4_isTexel :
    let i3 : Int := nibbleAt m t s row / 2 * 2
    let ia := i3 * 16 + i3 * 2 + i3 / 4
    IsTexel (m.fetchIa4 t s row) ia ia ia (if (nibbleAt m t s row : Int) % 2 = 1 then 255 else 0) := by
  intro i3 ia
  have hn := (m.texNibble t s row).isLt
  have hi3 : ((m.texNibble t s row).extractLsb' 1 3).toNat = (m.texNibble t s row).toNat / 2 := by
    rw [BitVec.extractLsb'_toNat, Nat.shiftRight_eq_div_pow]
    omega
  have hia : ∀ v : BitVec 3, v.toNat = (m.texNibble t s row).toNat / 2 →
      ((v ++ (v ++ v.extractLsb' 1 2) : BitVec 8).toNat : Int) = ia := fun v hv => by
    have hlt := v.isLt
    rw [toNat_append_eq_add, toNat_append_eq_add, BitVec.extractLsb'_toNat, Nat.shiftRight_eq_div_pow]
    simp only [ia, i3, ← texNibble_toNat]
    omega
  have ha := alphaBit_toNat (m.texNibble t s row)
  rw [texNibble_toNat] at ha
  exact texel8_isTexel (hia _ hi3) (hia _ hi3) (hia _ hi3) (ha.trans (if_congr (by omega) rfl rfl))

theorem fetchIa8_isTexel :
    let byte : Int := byteAt m t s row
    IsTexel (m.fetchIa8 t s row) (17 * (byte / 16)) (17 * (byte / 16)) (17 * (byte / 16)) (17 * (byte % 16)) := by
  intro byte
  have hb := (m.tmem8 (addr8 t s row)).isLt
  have hbyte : ((m.tmem8 (addr8 t s row)).toNat : Int) = byte := congrArg Nat.cast (texByte_toNat m t s row)
  have hfield : ∀ k, ((rep4 ((m.tmem8 (addr8 t s row)).extractLsb' k 4)).toNat : Int) =
      17 * ((m.tmem8 (addr8 t s row)).toNat / 2 ^ k % 2 ^ 4 : Nat) := fun k => by
    rw [rep4_toNat, BitVec.extractLsb'_toNat, Nat.shiftRight_eq_div_pow]
    rfl
  have hi : ((rep4 ((m.tmem8 (addr8 t s row)).extractLsb' 4 4)).toNat : Int) = 17 * (byte / 16) := by
    rw [hfield]
    omega
  exact texel8_isTexel hi hi hi ((hfield 0).trans (by omega))

theorem fetchRgba32_isTexel :
    let low := unitAt m (unitIndex 0x400 t s row)
    let high := unitAt m (unitIndex 0x400 t s row + 0x400)
    IsTexel (m.fetchRgba32 t s row) (low / 256) (low % 256) (high / 256) (high % 256) := by
  intro low high
  refine texel8_isTexel ?_ ?_ ?_ ?_
  · rw [highByte_toNat, texLow_toNat]; rfl
  · rw [lowByte_toNat, texLow_toNat]; rfl
  · rw [highByte_toNat, texHigh_toNat]; rfl
  · rw [lowByte_toNat, texHigh_toNat]; rfl

/-- YUV: signed chroma of the pair and the luma of the texel (R313). -/
theorem fetchYuv_isTexel :
    let y : Int := (m.tmemByte (rowSwap row 4 ((8 * rowBase t row + s.toInt) % 0x800).toNat + 0x800)).toNat
    let chroma : Int := unitAt m (chromaIndex t s row)
    IsTexel (m.fetchYuv t s row) (chroma / 256 - 128) (chroma % 256 - 128) y y := by
  intro y chroma
  have hluma : (((m.tmem8 (addrLuma t s row)).setWidth 9).toNat : Int) = y % 512 := by
    have hlt := (m.tmem8 (addrLuma t s row)).isLt
    rw [BitVec.toNat_setWidth, ← show ((m.tmem8 (addrLuma t s row)).toNat : Int) = y by rw [texLuma_eq]]
    omega
  refine ⟨(chroma_toNat _).trans ?_, (chroma_toNat _).trans ?_, hluma, hluma⟩
  · rw [highByte_toNat, texChroma_toNat]; rfl
  · rw [lowByte_toNat, texChroma_toNat]; rfl

/-- Settles O37: each arm reads one nibble or byte and expands it. -/
theorem fetchSmallTexels : Obligations.FetchSmallTexels := by
  unfold Obligations.FetchSmallTexels
  intro m n s row t nib byte answers i3 ia
  refine ⟨?_, ?_, ⟨_, rfl, fetchCi4_isTexel m t s row⟩, ⟨_, rfl, fetchIa4_isTexel m t s row⟩,
    ⟨_, rfl, fetchIa8_isTexel m t s row⟩⟩
  · rintro i (rfl | rfl | rfl) <;> exact ⟨_, rfl, fetchGrey4_isTexel m t s row⟩
  · rintro i (rfl | rfl | rfl | rfl) <;> exact ⟨_, rfl, fetchGrey8_isTexel m t s row⟩

/-- Settles O38: each arm reads the units at its swizzled index and expands them. -/
theorem fetchWideTexels : Obligations.FetchWideTexels := by
  unfold Obligations.FetchWideTexels
  intro m n s row t w low high answers
  have hunit := texUnit_toNat m t s row
  have hlow := texLow_toNat m t s row
  refine ⟨⟨_, rfl, texelRgba16_isRgba16 hunit⟩, ⟨_, rfl, fetchRgba32_isTexel m t s row⟩,
    ⟨_, rfl, texelIa16_isTexel hunit⟩, ?_, ?_, ?_⟩
  · rintro i (rfl | rfl) <;> exact ⟨_, rfl, texelPair_isPair hunit⟩
  · rintro i (rfl | rfl | rfl) <;> exact ⟨_, rfl, texelPair_isPair hlow⟩
  · rintro y chroma i (rfl | rfl) <;> exact ⟨_, rfl, fetchYuv_isTexel m t s row⟩

/-! ### The table index (R330) -/

/-- The switch of a tile whose derived fields are current (R546). -/
theorem tlutswitch_toNat {t : Tile} (h : t.recompute = t) : t.tlutswitch.toNat = 4 * t.size.toNat + (t.format.toNat + 2) % 4 := by
  have hsw : t.tlutswitch = t.size ++ (t.format + 2).setWidth 2 := (congrArg Tile.tlutswitch h).symm
  have htwo : BitVec.toNat (2 : BitVec 3) = 2 := rfl
  rw [hsw, toNat_append_eq_add, BitVec.toNat_setWidth, BitVec.toNat_add, htwo]
  omega

/-- Among the known formats it is YUV that the switch singles out within a size. -/
theorem format_yuv_iff {t : Tile} (hf : t.format.toNat < 5) : t.format = 1 ↔ (t.format.toNat + 2) % 4 = 3 := by
  have hone : BitVec.toNat (1 : BitVec 3) = 1 := rfl
  rw [← BitVec.toNat_inj, hone]
  omega

/-- A 16-bit index cut to the low half (log entry 16). -/
theorem texUnitLow_toNat : (m.tmem16 (addr16 t s row &&& 0x3FF)).toNat = unitAt m (unitIndex 0x800 t s row % 0x400) := by
  refine m.tmem16_toNat ?_ ((Nat.mod_lt _ (by decide)).trans (by decide))
  rw [BitVec.toNat_and, addr16_toNat]
  exact Nat.and_two_pow_sub_one_eq_mod _ 10

/-- The index is the nibble, byte or upper byte that the size and format of the tile name. -/
theorem tlutIndex_toNat {t : Tile} (hf : t.format.toNat < 5) (ht : t.recompute = t) :
    (m.tlutIndex t s row).toNat = tableIndex m t s row := by
  have hsw := tlutswitch_toNat ht
  have hsize := t.size.isLt
  unfold State.tlutIndex tableIndex
  simp only [format_yuv_iff hf, hsw, decide_eq_true_eq]
  obtain hyuv | hother : (t.format.toNat + 2) % 4 = 3 ∨ (t.format.toNat + 2) % 4 < 3 := by omega
  · generalize t.size.toNat = k at hsize ⊢
    interval_cases k <;> simp (disch := omega) only [if_pos, if_neg]
    · rw [toNat_append_eq_add, nibbleOf_toNat, texByte_toNat]; rfl
    · exact texByte_toNat m t s row
    · rw [highByte_toNat, texChroma_toNat]
    · rw [highByte_toNat, texChroma_toNat]
  · generalize t.size.toNat = k at hsize ⊢
    interval_cases k <;> simp (disch := omega) only [if_pos, if_neg]
    · rw [toNat_append_eq_add, texNibble_toNat]; rfl
    · exact texByte_toNat m t s row
    · rw [highByte_toNat, texUnitLow_toNat]
    · rw [highByte_toNat, texLow_toNat]

/-! ### The table entry (R330, R334) -/

/-- The table is in the high half, four banks to an entry. -/
theorem tlutEntry_toNat (e : BitVec 8) (k : BitVec 2) : (m.tlutEntry e k).toNat = tableEntry m e.toNat k.toNat := by
  have hbase : BitVec.toNat (0x400 : Word) = 0x400 := rfl
  have hek := (e ++ k).isLt
  refine m.tmem16_toNat ?_ (by omega)
  rw [BitVec.toNat_add, hbase, BitVec.toNat_setWidth, toNat_append_eq_add]
  omega

/-- The reading of a table entry by the table's type (R334). -/
def ReadsEntry (m : State) (c : Color 9) (e k : Nat) : Prop :=
  let v := tableEntry m e k
  if Om.tlutType m.gs.om then IsTexel c (v / 256) (v / 256) (v / 256) (v % 256) else IsRgba16 c v

/-- One tap: the entry of its index in its bank, read by the table's type. -/
theorem tlutTap_readsEntry {t : Tile} (k : BitVec 2) (hf : t.format.toNat < 5) (ht : t.recompute = t) :
    ReadsEntry m (m.tlutTap t s row k) (tableIndex m t s row) k.toNat := by
  have hentry := tlutEntry_toNat m (m.tlutIndex t s row) k
  rw [tlutIndex_toNat m s row hf ht] at hentry
  unfold ReadsEntry State.tlutTap State.tlutTexel
  cases Om.tlutType m.gs.om
  · exact texelRgba16_isRgba16 hentry
  · exact texelIa16_isTexel hentry

theorem formatCheck_known {t : Tile} (hf : t.format.toNat < 5) : formatCheck t = .ok () := if_pos hf

/-- The bank of a bilinear tap: its number, counted from the other end in the upper triangle (R330). -/
def tapBank (upper : Bool) (k : BitVec 2) : BitVec 2 := k ^^^ if upper then 3 else 0

theorem tapBank_toNat (upper : Bool) (k : BitVec 2) : (tapBank upper k).toNat = if upper then 3 - k.toNat else k.toNat := by
  revert upper k
  decide

/-- Bilinear: the four texels, each from its bank (R330). -/
theorem State.tmemFetchTlut_bilinear {n : BitVec 3} (sd td : BitVec 11) (upper : Bool)
    (hf : (m.tile n).format.toNat < 5) (h : Om.sampleType m.gs.om = true) : m.tmemFetchTlut n s sd row td upper =
      .ok ⟨m.tlutTap (m.tile n) s row (tapBank upper 0), m.tlutTap (m.tile n) (s + sd.signExtend 13) row (tapBank upper 1),
        m.tlutTap (m.tile n) s (row + td.signExtend 13) (tapBank upper 2),
        m.tlutTap (m.tile n) (s + sd.signExtend 13) (row + td.signExtend 13) (tapBank upper 3)⟩ := by
  unfold State.tmemFetchTlut
  simp only [formatCheck_known hf]
  exact if_pos h

/-- Nearest: one texel in the four banks (R332). -/
theorem State.tmemFetchTlut_nearest {n : BitVec 3} (sd td : BitVec 11) (upper : Bool)
    (hf : (m.tile n).format.toNat < 5) (h : ¬ Om.sampleType m.gs.om = true) : m.tmemFetchTlut n s sd row td upper =
      .ok ⟨m.tlutTap (m.tile n) s row 0, m.tlutTap (m.tile n) s row 1, m.tlutTap (m.tile n) s row 2,
        m.tlutTap (m.tile n) s row 3⟩ := by
  unfold State.tmemFetchTlut
  simp only [formatCheck_known hf]
  exact if_neg h

theorem exec_tmemFetchTlut_next {m : State} {n : BitVec 3} {s row : BitVec 13} {sd td : BitVec 11} {upper : Bool} {q : Quad}
    (h : m.tmemFetchTlut n s sd row td upper = .ok q) :
    exec (.tmemFetchTlut n s sd row td upper) m = .next { m with ret := .quad q } := congrArg (retOf m .quad) h

/-- Settles O40: the taps of either sampling, each by `tlutTap_readsEntry`. -/
theorem fetchThroughLookupTable : Obligations.FetchThroughLookupTable := by
  unfold Obligations.FetchThroughLookupTable
  intro m n s row sd td upper hf ht
  have htap := fun a b k => tlutTap_readsEntry m a b k hf ht
  have hbank := fun a b k => tapBank_toNat upper k ▸ htap a b (tapBank upper k)
  have hsame : ∀ v : BitVec 13, v + (0 : BitVec 11).signExtend 13 = v := BitVec.add_zero
  by_cases hsample : Om.sampleType m.gs.om = true
  · refine ⟨_, exec_tmemFetchTlut_next (m.tmemFetchTlut_bilinear s row sd td upper hf hsample), ?_⟩
    intro reads index bank
    rw [if_pos hsample]
    simp only [index, hsame]
    exact ⟨hbank _ _ 0, hbank _ _ 1, hbank _ _ 2, hbank _ _ 3⟩
  · refine ⟨_, exec_tmemFetchTlut_next (m.tmemFetchTlut_nearest s row sd td upper hf hsample), ?_⟩
    intro reads index bank
    rw [if_neg hsample]
    simp only [index, hsame]
    exact ⟨htap _ _ 0, htap _ _ 1, htap _ _ 2, htap _ _ 3⟩

/-! ### Copy-mode texel (R340) -/

/-- Texel `p` of a group lies `p` places on, in 12 bits. -/
theorem groupTexel_toInt (c : BitVec 17) (p : BitVec 2) :
    (texelIndex c + p.setWidth 12).toInt = (c.toInt / 32 + p.toNat).bmod 0x1000 := by
  have hp := p.isLt
  have hwidth : (p.setWidth 12).toInt = p.toNat := by
    rw [BitVec.toInt_setWidth]
    exact Int.bmod_eq_of_le (by omega) (by omega)
  rw [BitVec.toInt_add, texelIndex_toInt, hwidth]

theorem texelIndex_bmod (c : BitVec 17) : (texelIndex c).toInt = (c.toInt / 32).bmod 0x1000 := by
  rw [← texelIndex_toInt]
  exact (BitVec.toInt_bmod_cancel _).symm

/-- The place of texel `p` of a group along the line: shifted, relative to the tile, masked (R340). -/
def Tile.copyS (t : Tile) (sss : BitVec 16) (p : BitVec 2) : BitVec 13 :=
  let s1 := tileRelative (tcShift sss t.shiftS t.sh).1 t.sl
  (tcMask (texelIndex s1 + p.setWidth 12) t.maskS t.ms t.masksclamped).signExtend 13

/-- The row of a group (R340). -/
def Tile.copyT (t : Tile) (sst : BitVec 16) : BitVec 13 :=
  let t1 := tileRelative (tcShift sst t.shiftT t.th).1 t.tl
  (tcMask (texelIndex t1) t.maskT t.mt t.masktclamped).signExtend 13

/-- The 16-bit value of a copied texel (R340). -/
theorem State.copyTexel16_reads (n : BitVec 3) (sss sst : BitVec 16) (p : BitVec 2)
    (hf : (m.tile n).format.toNat < 5) (ht : (m.tile n).recompute = m.tile n)
    (hread : Om.enTlut m.gs.om = true ∨ (m.tile n).size = 2) :
    let t := m.tile n
    ∃ c, m.copyTexel16 n sss sst p = .ok c ∧ c.toNat =
      if Om.enTlut m.gs.om then tableEntry m (tableIndex m t (t.copyS sss p) (t.copyT sst)) p.toNat
      else unitAt m (unitIndex 0x800 t (t.copyS sss p) (t.copyT sst)) := by
  intro t
  unfold State.copyTexel16
  simp only [formatCheck_known hf]
  by_cases htlut : Om.enTlut m.gs.om = true
  · refine ⟨_, if_pos htlut, ?_⟩
    rw [if_pos htlut, tlutEntry_toNat]
    exact congrArg (tableEntry m · p.toNat) (tlutIndex_toNat m _ _ hf ht)
  · refine ⟨_, (if_neg htlut).trans (if_pos (hread.resolve_left htlut)), ?_⟩
    rw [if_neg htlut]
    exact texUnit_toNat m t _ _

theorem exec_copyTexel16_next {m : State} {n : BitVec 3} {sss sst c : BitVec 16} {p : BitVec 2}
    (h : m.copyTexel16 n sss sst p = .ok c) :
    exec (.copyTexel16 n sss sst p) m = .next { m with ret := .texel16 c } := congrArg (retOf m .texel16) h

/-- Settles O41: the value by `copyTexel16_reads`, its place by the texel index in 12 bits. -/
theorem copyTexel : Obligations.CopyTexel := by
  unfold Obligations.CopyTexel
  intro m n sss sst p hf ht hread
  obtain ⟨c, hc, hvalue⟩ := m.copyTexel16_reads n sss sst p hf ht hread
  exact ⟨c, _, _, exec_copyTexel16_next hc, groupTexel_toInt _ p, texelIndex_bmod _, hvalue⟩

end Sys2Proof.Machine

end

/-! ## The combiner family: the equations, the end of a cycle and the chroma key (`44_combiner.md`)

The tables and the saturating steps are given once as integers. A cycle is its equations (`combineWith`), the alpha that ends it
(`finalAlpha`, one lemma for each of its three sources) and the coverage count; the alpha compare of 2-cycle mode reads the same
`finalAlpha` after cycle 0. -/

section

namespace Sys2Proof.Machine

/-! ### The equations (R351, R356, R357) -/

/-- `ext9` reads the two top bits of its index (R351). -/
theorem ext9_eq_extended9 (v : BitVec 9) : ext9 v = extended9 v := by
  have htop : v &&& 0x180 = 0x180 ↔ ¬ v.toNat < 0x180 := by
    revert v
    decide
  unfold ext9 extended9
  simp only [htop, ite_not]

/-- The sum of an equation: the product is 0 when C is the zero constant (R356). -/
def combineSum (a b c d : BitVec 9) (cZero : Bool) : Int :=
  (extended9 a - extended9 b) * (if cZero then 0 else c.toInt) + 256 * extended9 d + 128

section Equations

variable (a b c d : BitVec 9) (cZero : Bool)

/-- The colour equation keeps 17 bits of the sum, on its shortcut too (R356). -/
theorem combineEqRgb_toNat : ((combineEqRgb a b c d cZero).toNat : Int) = combineSum a b c d cZero % 0x20000 := by
  unfold combineEqRgb combineSum
  cases cZero
  · simp only [Bool.false_eq_true, if_false, toNat_ofInt_eq_emod, ext9_eq_extended9, Int.mul_comm 256]
    rfl
  · simp only [if_true, toNat_ofInt_eq_emod, ext9_eq_extended9]
    omega

/-- The alpha equation keeps 9 bits of the sum above its fraction; the shortcut has no fraction to drop (R357). -/
theorem combineEqAlpha_toNat : ((combineEqAlpha a b c d cZero).toNat : Int) = combineSum a b c d cZero / 256 % 512 := by
  unfold combineEqAlpha combineSum
  cases cZero
  · have hshift : ∀ v : Int, v >>> (8 : Nat) = v / 256 ∧ v >>> (8 : Int) = v / 256 := fun v => shiftRight_eq_ediv v 8
    simp only [Bool.false_eq_true, if_false, toNat_ofInt_eq_emod, ext9_eq_extended9, Int.mul_comm 256, hshift]
    rfl
  · simp only [if_true, toNat_ofInt_eq_emod, ext9_eq_extended9]
    omega

end Equations

/-- Settles O42: each equation by its integer form; only the result latch is written. -/
theorem combinerEquations : Obligations.CombinerEquations := by
  unfold Obligations.CombinerEquations
  intro m a b c d cZero
  exact ⟨_, _, rfl, rfl, combineEqRgb_toNat a b c d cZero, combineEqAlpha_toNat a b c d cZero⟩

/-! ### The saturating steps of an alpha (R352, R364) -/

theorem clamp9_toNat (v : BitVec 9) : ((clamp9 v).toNat : Int) = clamped9 v.toNat := by
  rw [← clamp9_ofInt, BitVec.ofInt_natCast, BitVec.ofNat_toNat, BitVec.setWidth_eq]

theorem clampChannel_toNat (v : BitVec 17) : ((clampChannel v).toNat : Int) = clamped9 (v.toNat / 256) := by
  have hint : ((v >>> 8).setWidth 9).toNat = v.toNat / 256 := by
    rw [BitVec.toNat_setWidth, BitVec.toNat_ushiftRight, Nat.shiftRight_eq_div_pow]
    omega
  unfold clampChannel
  rw [clamp9_toNat, hint]
  rfl

/-- The clamped alpha, an exact 0xFF moved up to 0x100 (R364). -/
theorem quirkAlpha_toNat (a : BitVec 9) :
    ((quirkAlpha a).toNat : Int) = if clamped9 a.toNat = 255 then 256 else clamped9 a.toNat := by
  have hfull : clamp9 a = 0xFF ↔ clamped9 a.toNat = 255 := by
    rw [← clamp9_toNat, ← BitVec.toNat_inj]
    exact Int.natCast_inj.symm
  unfold quirkAlpha
  simp only [hfull]
  split
  · rfl
  · rw [BitVec.toNat_setWidth_of_le (by decide), clamp9_toNat]

/-- An alpha of at most 0x100 plus its dither saturates: 0x100 and above are the sums with bit 8 (R364). -/
theorem ditherAlpha_toNat {a : BitVec 9} (adith : BitVec 3) (ha : a.toNat ≤ 256) :
    (ditherAlpha a adith).toNat = min 255 (a.toNat + adith.toNat) := by
  have hadith := adith.isLt
  have hsum : (a + adith.setWidth 9).toNat = a.toNat + adith.toNat := by
    rw [BitVec.toNat_add, BitVec.toNat_setWidth_of_le (by decide)]
    omega
  unfold ditherAlpha
  simp only [getLsbD_eq_decide, hsum, decide_eq_true_eq]
  split
  · show 255 = _
    omega
  · rw [hsum]
    omega

/-- The quirk is not seen behind the dither: 0xFF and 0x100 both end at 0xFF (R364). -/
theorem ditherAlpha_quirkAlpha (a : BitVec 9) (adith : BitVec 3) :
    ((ditherAlpha (quirkAlpha a) adith).toNat : Int) = min 255 (clamped9 a.toNat + adith.toNat) := by
  have hquirk := quirkAlpha_toNat a
  have hclamp := clamp9_toNat a
  have hlt := (clamp9 a).isLt
  rw [ditherAlpha_toNat adith (by split at hquirk <;> omega)]
  split at hquirk <;> omega

theorem saturate255_toNat (v : Nat) : (saturate255 v).toNat = min 255 v := by
  unfold saturate255
  split
  · show 255 = _
    omega
  · rw [BitVec.toNat_ofNat]
    omega

/-- The shade alpha with its dither (R364). -/
theorem ditheredShade_toNat (a : BitVec 8) (adith : BitVec 3) :
    ((ditherAlpha (a.setWidth 9) adith).setWidth 8).toNat = min 255 (a.toNat + adith.toNat) := by
  have ha := a.isLt
  have hwide : (a.setWidth 9).toNat = a.toNat := BitVec.toNat_setWidth_of_le (by decide)
  rw [BitVec.toNat_setWidth, ditherAlpha_toNat adith (by omega), hwide]
  omega

/-! ### The alpha that ends a cycle (R362, R364) -/

/-- Coverage times alpha, on the alpha after the quirk (R364). -/
theorem alphaTimesCvg_quirkAlpha (a : BitVec 9) (cvg : BitVec 4) : (alphaTimesCvg (quirkAlpha a) cvg : Int) =
    ((if clamped9 a.toNat = 255 then 256 else clamped9 a.toNat) * cvg.toNat + 4) / 8 := by
  rw [← quirkAlpha_toNat]
  unfold alphaTimesCvg
  push_cast
  rfl

section FinalAlpha

variable {s : State} {pre : BitVec 9} {adith : BitVec 3} {cvg : BitVec 4} {temp : Nat} {key : BitVec 8}

theorem State.finalAlpha_dithered (hsel : Om.alphaCvgSelect s.gs.om = false) (hkey : Om.keyEn s.gs.om = false) :
    s.finalAlpha pre adith cvg temp key = ditherAlpha pre adith := by
  unfold State.finalAlpha
  rw [hsel, hkey]
  rfl

theorem State.finalAlpha_keyed (hsel : Om.alphaCvgSelect s.gs.om = false) (hkey : Om.keyEn s.gs.om = true) :
    s.finalAlpha pre adith cvg temp key = key.setWidth 9 := by
  unfold State.finalAlpha
  rw [hsel, hkey]
  rfl

theorem State.finalAlpha_coverage (hsel : Om.alphaCvgSelect s.gs.om = true) :
    (s.finalAlpha pre adith cvg temp key).toNat =
      min 255 (if Om.cvgTimesAlpha s.gs.om then temp else 32 * cvg.toNat) := by
  unfold State.finalAlpha
  rw [hsel, Nat.mul_comm 32]
  exact saturate255_toNat _

end FinalAlpha

/-! ### Chroma key (R366) -/

/-- One key distance with the sign of R366: a half above zero is rounded up before it is negated. -/
theorem keyChannel_eq (width : BitVec 12) (v : BitVec 17) : keyChannel width v = 16 * width.toNat +
    if 0 < v.toInt then (if v.toInt % 16 = 8 then 16 - v.toInt else -v.toInt) else v.toInt := by
  have hround : -v.toInt + 0x10 = 16 - v.toInt := by omega
  unfold keyChannel
  simp only [hround, Int.mul_comm 16]

theorem minInt_eq_min (x y : Int) : minInt x y = min x y := by
  unfold minInt
  split <;> omega

theorem clampInt_byte (v : Int) : clampInt v 0 0xFF = max 0 (min 255 v) := by
  unfold clampInt
  split
  · omega
  · split <;> omega

/-- The key is the smallest distance, clamped to a byte. -/
theorem State.chromaKey_toNat (s : State) (col : Rgb 17) :
    let w := s.gs.col.keyWidth
    ((s.chromaKey col).toNat : Int) =
      max 0 (min 255 (min (keyChannel w.r col.r) (min (keyChannel w.g col.g) (keyChannel w.b col.b)))) := by
  intro w
  unfold State.chromaKey
  rw [toNat_ofInt_eq_emod, clampInt_byte, minInt_eq_min, minInt_eq_min, min_assoc]
  exact Int.emod_eq_of_lt (by omega) (by omega)

/-! ### The end of a pixel's last cycle (R364) -/

section FinishCycle

variable {s : State} {adith : BitVec 3} {cvg : BitVec 4} {bypass : Rgb 9}

/-- The coverage count a cycle leaves: times alpha, in four bits, or as it was. -/
theorem State.finishCycle_cvg : ((s.finishCycle adith cvg bypass).2.toNat : Int) = if Om.cvgTimesAlpha s.gs.om
    then (alphaTimesCvg (quirkAlpha s.gs.col.combined.a) cvg : Int) / 32 % 16 else cvg.toNat := by
  unfold State.finishCycle
  simp only
  split
  · rw [BitVec.toNat_ofNat]
    push_cast
    rfl
  · rfl

theorem State.finishCycle_unkeyed (hkey : Om.keyEn s.gs.om = false) :
    let c := s.gs.col.combined
    let px := (s.finishCycle adith cvg bypass).1.gs.col.pixel
    px.r = clampChannel c.r ∧ px.g = clampChannel c.g ∧ px.b = clampChannel c.b := by
  unfold State.finishCycle
  rw [hkey]
  exact ⟨rfl, rfl, rfl⟩

theorem State.finishCycle_keyed (hkey : Om.keyEn s.gs.om = true) :
    let px := (s.finishCycle adith cvg bypass).1.gs.col.pixel
    px.r = clamp9 bypass.r ∧ px.g = clamp9 bypass.g ∧ px.b = clamp9 bypass.b := by
  unfold State.finishCycle
  rw [hkey]
  exact ⟨rfl, rfl, rfl⟩

/-- The pixel alpha is the final alpha, on the coverage count the cycle leaves. -/
theorem State.finishCycle_alpha : (s.finishCycle adith cvg bypass).1.gs.col.pixel.a =
    s.finalAlpha (quirkAlpha s.gs.col.combined.a) adith (s.finishCycle adith cvg bypass).2
      (alphaTimesCvg (quirkAlpha s.gs.col.combined.a) cvg) (s.chromaKey s.combinedRgb) := rfl

/-- The pixel alpha from coverage: times alpha or the count as it was, since a plain cycle keeps the count. -/
theorem State.finishCycle_alpha_coverage (hsel : Om.alphaCvgSelect s.gs.om = true) :
    ((s.finishCycle adith cvg bypass).1.gs.col.pixel.a.toNat : Int) = min 255 (if Om.cvgTimesAlpha s.gs.om
      then (alphaTimesCvg (quirkAlpha s.gs.col.combined.a) cvg : Int) else 32 * cvg.toNat) := by
  have hcvg := s.finishCycle_cvg (adith := adith) (cvg := cvg) (bypass := bypass)
  rw [State.finishCycle_alpha, State.finalAlpha_coverage hsel]
  split at hcvg
  · next h => simp only [if_pos h]; omega
  · next h => simp only [if_neg h]; omega

end FinishCycle

/-- Settles O44: the frame by unfolding, each field by its lemma; the key is the state's own `chromaKey`. -/
theorem finishCycleAndChromaKey : Obligations.FinishCycleAndChromaKey := by
  unfold Obligations.FinishCycleAndChromaKey
  refine ⟨fun m adith cvg bypass => ⟨(m.finishCycle adith cvg bypass).1.gs.col.pixel, _,
    (m.finishCycle adith cvg bypass).2, rfl, ditheredShade_toNat _ adith, ?_, fun hkey => ?_, fun hkey => ?_,
    fun hsel hkey => ?_, fun hsel hkey => ⟨_, rfl, State.finalAlpha_keyed hsel hkey⟩, fun hsel => ?_⟩, fun m col => ?_⟩
  · rw [State.finishCycle_cvg, alphaTimesCvg_quirkAlpha]
  · obtain ⟨hr, hg, hb⟩ := State.finishCycle_unkeyed (adith := adith) (cvg := cvg) (bypass := bypass) hkey
    rw [hr, hg, hb]
    exact ⟨clampChannel_toNat _, clampChannel_toNat _, clampChannel_toNat _⟩
  · obtain ⟨hr, hg, hb⟩ := State.finishCycle_keyed (adith := adith) (cvg := cvg) (bypass := bypass) hkey
    rw [hr, hg, hb]
    exact ⟨clamp9_toNat _, clamp9_toNat _, clamp9_toNat _⟩
  · rw [State.finishCycle_alpha, State.finalAlpha_dithered hsel hkey]
    exact ditherAlpha_quirkAlpha _ _
  · rw [State.finishCycle_alpha_coverage hsel, alphaTimesCvg_quirkAlpha]
  · refine ⟨_, rfl, ?_⟩
    rw [State.chromaKey_toNat, keyChannel_eq, keyChannel_eq, keyChannel_eq]

/-! ### The cycles (R360, R362) -/

/-- The state after the cycle-0 equations (R362). -/
def State.afterCycle0 (s : State) : State := (s.setCycle 0).setCombined (s.combineWith (combinerSources0 s.gs.cc))

/-- `COMBINE_1CYCLE` is the cycle-1 equations and `FINISH_CYCLE`, whose bypass is the A input before them. -/
theorem exec_combine1cycle (s : State) (adith : BitVec 3) (cvg : BitVec 4) :
    let x := combinerSources1 s.gs.cc
    exec (.combine1cycle adith cvg) s = exec (.finishCycle adith cvg (x.aRgb.rgb s)) (s.setCombined (s.combineWith x)) :=
  rfl

/-- `COMBINE_2CYCLE` is the cycle-0 equations, the register moves and the last cycle; its alpha is read before the moves. -/
theorem exec_combine2cycle (s : State) (adith : BitVec 3) (cvg : BitVec 4) :
    let r := (s.afterCycle0.betweenCycles.setCycle 1).combine1cycle adith cvg
    exec (.combine2cycle adith cvg) s = .next (r.1.setRet (.combine2 (s.afterCycle0.acalpha adith cvg) r.2)) := rfl

section AlphaCompareInput

variable {s : State} {adith : BitVec 3} {cvg : BitVec 4}

theorem State.acalpha_disabled (h : Om.alphaCompareEn s.gs.om = false) : s.acalpha adith cvg = 0 :=
  if_neg (Bool.eq_false_iff.1 h)

/-- The alpha of the alpha compare is the final alpha on the count of the pixel (R362). -/
theorem State.acalpha_enabled (h : Om.alphaCompareEn s.gs.om = true) : s.acalpha adith cvg =
    s.finalAlpha (quirkAlpha s.gs.col.combined.a) adith cvg (alphaTimesCvg (quirkAlpha s.gs.col.combined.a) cvg)
      (s.chromaKey s.combinedRgb) := if_pos h

theorem State.acalpha_dithered (hen : Om.alphaCompareEn s.gs.om = true) (hsel : Om.alphaCvgSelect s.gs.om = false)
    (hkey : Om.keyEn s.gs.om = false) :
    ((s.acalpha adith cvg).toNat : Int) = min 255 (clamped9 s.gs.col.combined.a.toNat + adith.toNat) := by
  rw [State.acalpha_enabled hen, State.finalAlpha_dithered hsel hkey]
  exact ditherAlpha_quirkAlpha _ _

theorem State.acalpha_keyed (hen : Om.alphaCompareEn s.gs.om = true) (hsel : Om.alphaCvgSelect s.gs.om = false)
    (hkey : Om.keyEn s.gs.om = true) : s.acalpha adith cvg = (s.chromaKey s.combinedRgb).setWidth 9 :=
  (State.acalpha_enabled hen).trans (State.finalAlpha_keyed hsel hkey)

theorem State.acalpha_coverage (hen : Om.alphaCompareEn s.gs.om = true) (hsel : Om.alphaCvgSelect s.gs.om = true) :
    (s.acalpha adith cvg).toNat = min 255 (if Om.cvgTimesAlpha s.gs.om
      then alphaTimesCvg (quirkAlpha s.gs.col.combined.a) cvg else 32 * cvg.toNat) :=
  (congrArg BitVec.toNat (State.acalpha_enabled hen)).trans (State.finalAlpha_coverage hsel)

end AlphaCompareInput

/-- Settles O43: the compositions by `exec_combine1cycle` and `exec_combine2cycle`, the alpha by the three sources of
`finalAlpha`. -/
theorem combinerCycles : Obligations.CombinerCycles := by
  unfold Obligations.CombinerCycles
  refine ⟨fun m adith cvg => ⟨m.combineWith (combinerSources1 m.gs.cc), rfl, exec_combine1cycle m adith cvg, _, rfl⟩,
    fun m adith cvg => ?_⟩
  let s := m.afterCycle0
  refine ⟨s.gs.col.combined, _, _, s.acalpha adith cvg, _, rfl, rfl, exec_combine2cycle m adith cvg, rfl, rfl,
    s.acalpha_disabled, s.acalpha_dithered, fun hen hsel htimes => ?_, fun hen hsel htimes => ?_,
    fun hen hsel hkey => ⟨_, rfl, s.acalpha_keyed hen hsel hkey⟩⟩
  · exact (s.acalpha_coverage hen hsel).trans (congrArg (min 255) (if_neg (Bool.eq_false_iff.1 htimes)))
  · intro a
    have hcoverage := (s.acalpha_coverage (adith := adith) (cvg := cvg) hen hsel).trans
      (congrArg (min 255) (if_pos htimes))
    rw [← alphaTimesCvg_quirkAlpha]
    exact_mod_cast hcoverage

end Sys2Proof.Machine

end

/-! ## The blender family: the division table, the equations, alpha compare and the passes (`45_blender.md`)

The table is non-restoring division, one quotient bit a step. Both passes end in the same last cycle; a pass is then a rejected
pixel, or that cycle on the state alpha compare leaves, in 2-cycle mode after the first cycle. -/

section

namespace Sys2Proof.Machine

/-! ### The division table (R400) -/

/-- The partial remainder in three bits: after an even quotient the divisor has been taken off once too often. -/
def bldivRemainder (d p : Nat) : Nat := p % d + if p / d % 2 = 1 then 0 else 8 - d

/-- The sum of one step of the division: after an odd quotient the divisor is taken off, after an even one it is given back. -/
def bldivSum (d p : Nat) : Nat :=
  if p / 2 / d % 2 = 1 then (15 - d) + 2 * bldivRemainder d (p / 2) + p % 2 + 1
  else d + 2 * bldivRemainder d (p / 2) + p % 2

/-- The registers of the division once the leading bits of the dividend, `p`, are divided, with the quotient at place `j`. -/
def bldivLeading (d p j : Nat) : Nat × Nat := (bldivRemainder d p, p / d * 2 ^ j)

/-- The last bit of a quotient that ends at place `j`. -/
theorem quotient_and_place (q j : Nat) : (q * 2 ^ j) &&& 2 ^ j ≠ 0 ↔ q % 2 = 1 := by
  simp [Nat.and_two_pow, Nat.testBit_mul_two_pow, Nat.testBit_zero]

theorem quotient_or_place (p d j : Nat) :
    (if p / d % 2 = 1 then p / 2 / d * 2 ^ (j + 1) ||| 2 ^ j else p / 2 / d * 2 ^ (j + 1)) = p / d * 2 ^ j := by
  have hquot : p / d = 2 * (p / 2 / d) + p / d % 2 := by
    rw [Nat.div_right_comm]
    omega
  have hplaces : p / d * 2 ^ j = p / 2 / d * 2 ^ (j + 1) + p / d % 2 * 2 ^ j := by
    rw [pow_succ', ← Nat.mul_assoc, ← Nat.add_mul, Nat.mul_comm _ 2, ← hquot]
  rw [hplaces]
  split
  · next hodd => rw [hodd, Nat.one_mul, Nat.mul_comm, Nat.two_pow_add_eq_or_of_lt (Nat.pow_lt_pow_succ Nat.one_lt_two)]
  · next heven => rw [Nat.mod_two_ne_one.1 heven, Nat.zero_mul]; rfl

section Division

variable {d : Nat} (hd : 1 ≤ d) (hd8 : d ≤ 8)

include hd hd8

/-- The sum is the next remainder, or 16 above it: bit 4 is the next bit of the quotient. -/
theorem bldivSum_eq (p : Nat) : bldivSum d p = p % d + if p / d % 2 = 1 then 16 else 16 - d := by
  unfold bldivSum bldivRemainder
  interval_cases d <;> split <;> split <;> omega

theorem bldivSum_mod (p : Nat) : bldivSum d p % 8 = bldivRemainder d p := by
  have hmod : p % d < d := Nat.mod_lt p hd
  rw [bldivSum_eq hd hd8]
  unfold bldivRemainder
  split <;> omega

theorem bldivSum_testBit (p : Nat) : (bldivSum d p).testBit 4 = decide (p / d % 2 = 1) := by
  have hmod : p % d < d := Nat.mod_lt p hd
  rw [bldivSum_eq hd hd8, Nat.testBit_eq_decide_div_mod_eq, decide_eq_decide]
  split <;> omega

/-- A step takes the next bit of the dividend (R400). -/
theorem bldivStep_leading (n : Nat) {j : Nat} (hj : j ≤ 7) :
    bldivStep d n (bldivLeading d (n / 2 ^ (j + 1)) (j + 1)) (7 - j) = bldivLeading d (n / 2 ^ j) j := by
  have hplace : 0x100 >>> (7 - j) = 2 ^ (j + 1) := by
    interval_cases j <;> rfl
  have hhalf : n / 2 ^ (j + 1) = n / 2 ^ j / 2 := by
    rw [pow_succ, Nat.div_div_eq_div_mul]
  have hsum := bldivSum_mod hd hd8 (n / 2 ^ j)
  have hbit := bldivSum_testBit hd hd8 (n / 2 ^ j)
  unfold bldivSum at hsum hbit
  unfold bldivStep bldivLeading
  simp only [hplace, hhalf, quotient_and_place, Nat.sub_sub_self hj, Nat.shiftRight_eq_div_pow, Nat.one_shiftLeft, hsum,
    hbit, decide_eq_true_eq, quotient_or_place]

/-- The registers after `k` steps. -/
theorem bldivSteps_leading {n : Nat} (hn : n / d ≤ 255) {k : Nat} (hk : k ≤ 8) :
    (List.range k).foldl (bldivStep d n) (((15 - d) + n / 256 + 1) % 8, 0) = bldivLeading d (n / 2 ^ (8 - k)) (8 - k) := by
  induction k with
  | zero =>
    have hsmall : n / 256 < d := by
      have hlt : n < 256 * d := (Nat.div_lt_iff_lt_mul hd).1 (by omega)
      omega
    have hremainder : bldivRemainder d (n / 256) = n / 256 + (8 - d) := by
      simp [bldivRemainder, Nat.div_eq_of_lt hsmall, Nat.mod_eq_of_lt hsmall]
    refine Prod.ext ?_ ?_
    · show ((15 - d) + n / 256 + 1) % 8 = bldivRemainder d (n / 256)
      omega
    · show 0 = n / 256 / d * _
      rw [Nat.div_eq_of_lt hsmall, Nat.zero_mul]
  | succ k ih =>
    have hstep := bldivStep_leading hd hd8 n (j := 7 - k) (by omega)
    rw [show 7 - k + 1 = 8 - k by omega, show 7 - (7 - k) = k by omega] at hstep
    rw [List.range_succ, List.foldl_append, ih (by omega), Nat.add_comm k, Nat.sub_add_eq]
    exact hstep

/-- After the eight steps the whole dividend is divided. -/
theorem bldiv_toNat {n : Nat} (hn : n < 2048) (hquot : n / d ≤ 255) :
    (bldiv (BitVec.ofNat 15 (d * 2048 + n))).toNat = n / d := by
  have hindex : (BitVec.ofNat 15 (d * 2048 + n)).toNat = d * 2048 + n := by
    rw [BitVec.toNat_ofNat]
    omega
  have hdivisor : (d * 2048 + n) / 2048 = d := by omega
  have hdividend : (d * 2048 + n) % 2048 = n := by omega
  have hsteps := congrArg Prod.snd (bldivSteps_leading hd hd8 hquot (k := 8) le_rfl)
  unfold bldiv
  simp only [hindex, hdivisor, hdividend]
  rw [show [0, 1, 2, 3, 4, 5, 6, 7] = List.range 8 from rfl, hsteps, BitVec.toNat_ofNat]
  simp only [bldivLeading, Nat.sub_self, pow_zero, Nat.div_one, Nat.mul_one]
  exact Nat.mod_eq_of_lt (Nat.lt_succ_of_le hquot)

end Division

/-- Settles O45: the table is the division of its index's fields, by the invariant `bldivLeading` of its steps. -/
theorem blendDivisionIsExact : Obligations.BlendDivisionIsExact := by
  unfold Obligations.BlendDivisionIsExact
  exact fun d n hd hd8 hn hquot => bldiv_toNat hd hd8 hn hquot

/-! ### The equations (R396, R398) -/

/-- The factors as integers: with the memory alpha both are shifted, the first keeps bits 5:2, the second has
bits 1:0 set (R396). -/
theorem State.blendFactors_eq (s : State) (second : Bool) (sa sb : BitVec 3) : s.blendFactors second sa sb =
    let b1 := (blend1b s second).toNat / 8
    let b2 := (blend2b s second).toNat / 8
    if (blendCodes s.gs.om second).m2b = 1 then (b1 / 2 ^ sa.toNat / 4 % 16 * 4, b2 / 2 ^ sb.toNat / 4 * 4 + 3)
    else (b1, b2) := by
  have hmask : ∀ n : Nat, n &&& 0x3C = n / 4 % 16 * 4 := fun n => and_field n 4 2
  unfold State.blendFactors
  simp only [hmask, or_three, Nat.shiftRight_eq_div_pow]

section Channel

variable (b : Nat × Nat) (p m : BitVec 9)

/-- With `force_blend` the divisor is 32 (R396). -/
theorem blendChannel_forced : (blendChannel true b p m).toNat = blendSum p m b / 32 % 256 := BitVec.toNat_ofNat _ 8

/-- The index of the table is the divisor above the eleven bits of the dividend (R396). -/
theorem blendChannel_divided : blendChannel false b p m =
    bldiv (BitVec.ofNat 15 ((b.1 / 4 + b.2 / 4 + 1) * 2048 + blendSum p m b / 4 % 2048)) := by
  have hlow : blendSum p m b / 4 % 2048 < 2 ^ 11 := Nat.mod_lt _ (by decide)
  have hindex : (b.1 / 4 * 4 + b.2 / 4 * 4 + 4) * 512 = 2 ^ 11 * (b.1 / 4 + b.2 / 4 + 1) := by omega
  show bldiv (BitVec.ofNat 15 ((b.1 / 4 * 4 + b.2 / 4 * 4 + 4) * 512 ||| (blendSum p m b / 4 % 2048))) = _
  rw [hindex, ← Nat.two_pow_add_eq_or_of_lt hlow, Nat.mul_comm (2 ^ 11)]

/-- Up to the divisor 8 the table divides exactly (R400). -/
theorem blendChannel_exact (hdiv : b.1 / 4 + b.2 / 4 + 1 ≤ 8)
    (hquot : blendSum p m b / 4 % 2048 / (b.1 / 4 + b.2 / 4 + 1) ≤ 255) :
    (blendChannel false b p m).toNat = blendSum p m b / 4 % 2048 / (b.1 / 4 + b.2 / 4 + 1) := by
  rw [blendChannel_divided]
  exact bldiv_toNat (Nat.le_add_left 1 _) hdiv (Nat.mod_lt _ (by decide)) hquot

end Channel

/-- Settles O46: the factors by `blendFactors_eq`, each channel by its division; only the result latch is written. -/
theorem blendEquations : Obligations.BlendEquations := by
  unfold Obligations.BlendEquations
  intro m second
  refine ⟨m.blendEq second, m.blendEqC02, rfl, rfl, ?_⟩
  intro factors f g sum div eq
  have hf : m.blendFactors second m.gs.hid.blshifta m.gs.hid.blshiftb = f := m.blendFactors_eq _ _ _
  have hg : m.blendFactors false m.gs.hid.pastblshifta m.gs.hid.pastblshiftb = g := m.blendFactors_eq _ _ _
  have hx : ∀ ch : Rgb 9 → BitVec 9,
      eq ch (blendChannel (Om.forceBlend m.gs.om) f (ch (blend1a m second)) (ch (blend2a m second))) := by
    intro ch
    refine ⟨fun hforce => ?_, fun hforce => ?_, fun hforce _ => ?_⟩ <;> rw [hforce]
    · exact blendChannel_forced f _ _
    · exact blendChannel_exact f _ _
    · exact blendChannel_divided f _ _
  have hy : ∀ ch : Rgb 9 → BitVec 9,
      (BitVec.ofNat 8 (blendSum (ch (blend1a m false)) (ch (blend2a m false)) g / 32)).toNat = sum false g ch / 32 % 256 :=
    fun ch => blendChannel_forced g _ _
  unfold State.blendEq State.blendEqC02
  rw [hf, hg]
  exact ⟨hx Rgb.r, hx Rgb.g, hx Rgb.b, hy Rgb.r, hy Rgb.g, hy Rgb.b⟩

/-! ### Alpha compare (R402, R470) -/

/-- `IRAND` writes only the generator. -/
theorem State.irand_next (s : State) : ∃ seed v, s.irand = ({ s with gs.hid.iseed := seed }, v) ∧
    exec .irand s = .next { s with gs.hid.iseed := seed, ret := .random v } := by
  obtain ⟨seed, v, h⟩ : ∃ seed v, s.irand = ({ s with gs.hid.iseed := seed }, v) := ⟨_, _, rfl⟩
  exact ⟨seed, v, h, congrArg (fun x : State × BitVec 15 => Host.Outcome.next (x.1.setRet (.random x.2))) h⟩

section AlphaCompare

variable {s : State} (alpha : BitVec 9)

theorem State.alphaCompare_off (hen : Om.alphaCompareEn s.gs.om = false) : s.alphaCompare alpha = (s, true) := by
  simp [State.alphaCompare, hen]

theorem State.alphaCompare_fixed (hen : Om.alphaCompareEn s.gs.om = true) (hdither : Om.ditherAlphaEn s.gs.om = false) :
    s.alphaCompare alpha = (s, decide (s.gs.col.blend.a.toNat ≤ alpha.toNat)) := by
  simp [State.alphaCompare, hen, hdither]

theorem State.alphaCompare_dithered (hen : Om.alphaCompareEn s.gs.om = true) (hdither : Om.ditherAlphaEn s.gs.om = true) :
    s.alphaCompare alpha = (s.irand.1, decide (s.irand.2.toNat % 256 ≤ alpha.toNat)) := by
  simp [State.alphaCompare, hen, hdither]

section Answer

variable {alpha} {a : State} {pass : Bool} (h : s.alphaCompare alpha = (a, pass))

include h

theorem exec_alphaCompare : exec (.alphaCompare alpha) s = .next { a with ret := .bool pass } := by
  show Host.Outcome.next ((s.alphaCompare alpha).1.setRet (.bool (s.alphaCompare alpha).2)) = _
  rw [h]
  rfl

/-- Alpha compare writes only the generator. -/
theorem State.alphaCompare_frame : ∃ seed, a = { s with gs.hid.iseed := seed } := by
  obtain rfl : (s.alphaCompare alpha).1 = a := congrArg Prod.fst h
  cases hen : Om.alphaCompareEn s.gs.om
  · exact ⟨_, congrArg Prod.fst (s.alphaCompare_off alpha hen)⟩
  · cases hdither : Om.ditherAlphaEn s.gs.om
    · exact ⟨_, congrArg Prod.fst (s.alphaCompare_fixed alpha hen hdither)⟩
    · exact ⟨_, congrArg Prod.fst (s.alphaCompare_dithered alpha hen hdither)⟩

end Answer

end AlphaCompare

/-- Settles O47: one case of `alphaCompare` for each setting of the two enables. -/
theorem alphaCompareThreshold : Obligations.AlphaCompareThreshold := by
  unfold Obligations.AlphaCompareThreshold
  intro m alpha
  obtain ⟨a, pass, hstep⟩ : ∃ a pass, m.alphaCompare alpha = (a, pass) := ⟨_, _, rfl⟩
  obtain ⟨seed, rfl⟩ := State.alphaCompare_frame hstep
  refine ⟨_, pass, exec_alphaCompare hstep, rfl, fun hen => ?_, fun hen hdither => ?_, fun hen hdither => ?_⟩
  · obtain ⟨hstate, rfl⟩ := Prod.mk.inj (hstep.symm.trans (State.alphaCompare_off alpha hen))
    exact ⟨rfl, congrArg (·.gs.hid.iseed) hstate⟩
  · obtain ⟨hstate, rfl⟩ := Prod.mk.inj (hstep.symm.trans (State.alphaCompare_fixed alpha hen hdither))
    exact ⟨decide_eq_true_iff, congrArg (·.gs.hid.iseed) hstate⟩
  · obtain ⟨next, v, hirand, hexec⟩ := m.irand_next
    rw [State.alphaCompare_dithered alpha hen hdither, hirand] at hstep
    obtain ⟨hstate, rfl⟩ := Prod.mk.inj hstep
    obtain rfl : next = seed := congrArg (·.gs.hid.iseed) hstate
    exact ⟨v, hexec, decide_eq_true_iff⟩

/-! ### The last cycle of a pass (R404, R406) -/

/-- The pixel takes the blend, or input 1A where that bypasses it, and not input 2A. -/
def State.blendsColor (s : State) (o : BlendOperands) : Prop := Om.colorOnCvg s.gs.om = false ∨ o.prewrap = true

theorem State.blendsColor_iff {s : State} {o : BlendOperands} :
    (!Om.colorOnCvg s.gs.om || o.prewrap) = true ↔ s.blendsColor o := by
  simp [State.blendsColor]

/-- Input 1A bypasses the blend. -/
def State.blendBypassed (s : State) (reject : Bool) (o : BlendOperands) : Bool :=
  !o.blendEn || (reject && decide (255 ≤ s.gs.col.pixel.a.toNat))

section LastCycle

variable {s : State} (second : Bool) {reject : Bool} {o : BlendOperands}

theorem State.blendLast_bypassed (hcolor : s.blendsColor o) (hbypass : s.blendBypassed reject o = true) :
    s.blendLast second reject o = (s, rgb8 (blend1a s second)) :=
  (if_pos (State.blendsColor_iff.2 hcolor)).trans (if_pos hbypass)

theorem State.blendLast_blended (hcolor : s.blendsColor o) (hbypass : s.blendBypassed reject o = false) :
    s.blendLast second reject o = (s.setInvPixel second, (s.setInvPixel second).blendEq second) :=
  (if_pos (State.blendsColor_iff.2 hcolor)).trans (if_neg (Bool.eq_false_iff.1 hbypass))

theorem State.blendLast_memory (hcolor : ¬ s.blendsColor o) :
    s.blendLast second reject o = (s, rgb8 (blend2a s second)) :=
  if_neg (mt State.blendsColor_iff.1 hcolor)

variable (s reject o) in
/-- What the last cycle leaves: the inverse alpha is written where the blend runs. -/
theorem State.blendLast_state :
    (s.blendsColor o ∧ s.blendBypassed reject o = false → (s.blendLast second reject o).1 = s.setInvPixel second) ∧
    (¬ (s.blendsColor o ∧ s.blendBypassed reject o = false) → (s.blendLast second reject o).1 = s) := by
  refine ⟨fun ⟨hcolor, hbypass⟩ => congrArg Prod.fst (s.blendLast_blended second hcolor hbypass), fun h => ?_⟩
  by_cases hcolor : s.blendsColor o
  · have hbypass : s.blendBypassed reject o = true := by simpa [hcolor] using h
    exact congrArg Prod.fst (s.blendLast_bypassed second hcolor hbypass)
  · exact congrArg Prod.fst (s.blendLast_memory second hcolor)

variable (s reject o) in
theorem State.blendLast_frame : ∃ inv, (s.blendLast second reject o).1 = { s with gs.col.invPixelA := inv } := by
  obtain ⟨hblended, hsame⟩ := s.blendLast_state second reject o
  by_cases h : s.blendsColor o ∧ s.blendBypassed reject o = false
  · exact ⟨_, hblended h⟩
  · exact ⟨_, hsame h⟩

theorem State.blendLast_om : (s.blendLast second reject o).1.gs.om = s.gs.om :=
  (Stage.blendLast (W := fun _ => True) second reject o).control.om

/-- The post-blend dither (R404): by the selector of the state before the last cycle, which leaves the modes alone. -/
theorem blendDone_rgb (cdith : BitVec 15) :
    let x := s.blendLast second reject o
    (Om.rgbDitherSel s.gs.om = 3 → (blendDone x cdith).rgb = x.2) ∧
    (Om.rgbDitherSel s.gs.om ≠ 3 → (blendDone x cdith).rgb = s.rgbDither x.2.r x.2.g x.2.b cdith) := by
  intro x
  have hom : x.1.gs.om = s.gs.om := State.blendLast_om second
  have hdither : ∀ r g b, x.1.rgbDither r g b cdith = s.rgbDither r g b cdith := by
    intro r g b
    unfold State.rgbDither
    rw [hom]
  unfold blendDone
  rw [hom, hdither]
  exact ⟨fun h => if_neg (by simp [h]), fun h => if_pos (by simpa using h)⟩

/-- A pass that ends in the last cycle on `s`: the state it leaves up to the result latch, and its colour, which the dither of a
state `a` with the same modes gives from the colour `c` of the cycle. -/
theorem State.lastCycle {t u a : State} {rgb : Rgb 8} (hrun : blendDone (s.blendLast second reject o) o.cdith = ⟨u, true, rgb⟩)
    (ht : t = { u with ret := t.ret }) (hom : a.gs.om = s.gs.om) :
    let inv := s.setInvPixel second
    (s.blendsColor o ∧ s.blendBypassed reject o = false → t = { inv with ret := t.ret }) ∧
    (¬ (s.blendsColor o ∧ s.blendBypassed reject o = false) → t = { s with ret := t.ret }) ∧
    ∃ c : Rgb 8,
      (s.blendsColor o → s.blendBypassed reject o = true → c = rgb8 (blend1a s second)) ∧
      (s.blendsColor o → s.blendBypassed reject o = false →
        exec (.blendEq second) inv = .next { inv with ret := .rgb c }) ∧
      (¬ s.blendsColor o → c = rgb8 (blend2a s second)) ∧
      (Om.rgbDitherSel s.gs.om = 3 → rgb = c) ∧
      (Om.rgbDitherSel s.gs.om ≠ 3 → exec (.rgbDither c.r c.g c.b o.cdith) a = .next { a with ret := .rgb rgb }) := by
  intro inv
  have hst : u = (s.blendLast second reject o).1 := congrArg Blend.st hrun.symm
  have hrgb : rgb = (blendDone (s.blendLast second reject o) o.cdith).rgb := congrArg Blend.rgb hrun.symm
  obtain ⟨hblended, hsame⟩ := s.blendLast_state second reject o
  obtain ⟨hplain, hdithered⟩ := blendDone_rgb (s := s) (o := o) second (reject := reject) o.cdith
  rw [← hst] at hblended hsame
  rw [← hrgb] at hplain hdithered
  have hlatch : ∀ v, u = v → t = { v with ret := t.ret } := fun v hv => hv ▸ ht
  refine ⟨fun h => hlatch _ (hblended h), fun h => hlatch _ (hsame h), (s.blendLast second reject o).2,
    fun hcolor hbypass => congrArg Prod.snd (s.blendLast_bypassed second hcolor hbypass), fun hcolor hbypass => ?_,
    fun hcolor => congrArg Prod.snd (s.blendLast_memory second hcolor), hplain, fun hsel => ?_⟩
  · rw [s.blendLast_blended second hcolor hbypass]
    rfl
  · rw [hdithered hsel]
    unfold State.rgbDither
    rw [← hom]
    rfl

end LastCycle

/-! ### The passes (R404, R406) -/

section Passes

variable {s : State} {o : BlendOperands}

/-- The alpha compare that a pass runs, from a run of its own whose result latch is put back. -/
theorem alphaCompare_of_exec {a : State} {alpha : BitVec 9} {pass : Bool}
    (h : exec (.alphaCompare alpha) s = .next { a with ret := .bool pass }) (hret : a.ret = s.ret) :
    s.alphaCompare alpha = (a, pass) := by
  obtain ⟨b, p, hstep⟩ : ∃ b p, s.alphaCompare alpha = (b, p) := ⟨_, _, rfl⟩
  have hnext := Host.Outcome.next.inj ((exec_alphaCompare hstep).symm.trans h)
  obtain rfl : p = pass := Ret.bool.inj (congrArg State.ret hnext)
  obtain ⟨seed, rfl⟩ := State.alphaCompare_frame hstep
  have hstate : { s with gs.hid.iseed := seed } = { a with ret := s.ret } := congrArg (State.setRet · s.ret) hnext
  rw [hstep, hstate, ← hret]

/-- What a pass returns, from its run. -/
theorem Blend.of_latched {b : Blend} {t : State} {w : Bool} {rgb : Rgb 8}
    (h : (.next (b.st.setRet (.blended b.written b.rgb)) : Result) = .next t) (hret : t.ret = .blended w rgb) :
    ∃ u, b = ⟨u, w, rgb⟩ ∧ t = { u with ret := t.ret } := by
  obtain rfl := Host.Outcome.next.inj h
  obtain ⟨rfl, rfl⟩ := Ret.blended.inj hret
  exact ⟨b.st, rfl, rfl⟩

theorem State.coverageGate_iff :
    s.coverageGate o = true ↔ if Om.antialiasEn s.gs.om then o.cvg ≠ 0 else o.cvbit = true := by
  unfold State.coverageGate
  split
  · exact decide_eq_true_iff
  · exact Iff.rfl

theorem State.blend1cycle_rejected {a : State} {pass : Bool} (h : s.alphaCompare s.gs.col.pixel.a = (a, pass))
    (hgate : (pass && a.coverageGate o) = false) : s.blend1cycle o = ⟨a, false, zeroRgb 8⟩ := by
  simp [State.blend1cycle, h, hgate]

theorem State.blend1cycle_written {a : State} {pass : Bool} (h : s.alphaCompare s.gs.col.pixel.a = (a, pass))
    (hgate : (pass && a.coverageGate o) = true) :
    s.blend1cycle o = blendDone (a.blendLast false a.gs.der.partialreject1cycle o) o.cdith := by
  simp [State.blend1cycle, h, hgate]

theorem State.blend2cycle_rejected {a : State} {pass : Bool} {acalpha : BitVec 9} (h : s.alphaCompare acalpha = (a, pass))
    (hgate : (pass && a.coverageGate o) = false) : s.blend2cycle o acalpha = ⟨a.restoreMemory, false, zeroRgb 8⟩ := by
  simp [State.blend2cycle, h, hgate]

/-- The state in which the last cycle of `BLEND_2CYCLE` runs. -/
def State.afterBlendFirst (s : State) : State := (s.setCycle 0).blendFirst.setCycle 1

theorem State.blend2cycle_written {a : State} {pass : Bool} {acalpha : BitVec 9} (h : s.alphaCompare acalpha = (a, pass))
    (hgate : (pass && a.coverageGate o) = true) :
    s.blend2cycle o acalpha = blendDone (a.afterBlendFirst.blendLast true a.gs.der.partialreject2cycle o) o.cdith := by
  simp [State.blend2cycle, State.afterBlendFirst, h, hgate]

/-- `BLEND_1CYCLE` writes only the generator and the inverse alpha. -/
theorem State.blend1cycle_frame {t : State} {w : Bool} {c : Rgb 8} (h : s.blend1cycle o = ⟨t, w, c⟩) :
    ∃ seed inv, t = { s with gs.hid.iseed := seed, gs.col.invPixelA := inv } := by
  obtain ⟨a, pass, hstep⟩ : ∃ a pass, s.alphaCompare s.gs.col.pixel.a = (a, pass) := ⟨_, _, rfl⟩
  obtain ⟨seed, rfl⟩ := State.alphaCompare_frame hstep
  cases hgate : pass && s.coverageGate o
  · exact ⟨seed, _, congrArg Blend.st (h.symm.trans (State.blend1cycle_rejected hstep hgate))⟩
  · obtain ⟨inv, hinv⟩ := State.blendLast_frame { s with gs.hid.iseed := seed } false s.gs.der.partialreject1cycle o
    exact ⟨seed, inv, (congrArg Blend.st (h.symm.trans (State.blend1cycle_written hstep hgate))).trans hinv⟩

section TwoCycles

variable {acalpha : BitVec 9} {t : State} {w : Bool} {c : Rgb 8} (h : s.blend2cycle o acalpha = ⟨t, w, c⟩)

include h

/-- `BLEND_2CYCLE` writes the registers of its first cycle as well, and leaves the memory colour of its own pixel (R406). -/
theorem State.blend2cycle_frame : ∃ seed inv blended cycle, t = { s with
    gs.hid.iseed := seed, gs.col.invPixelA := inv, gs.col.memory := s.gs.col.preMemory
    gs.col.blendedPixel := blended, gs.seq.cycle := cycle } := by
  obtain ⟨a, pass, hstep⟩ : ∃ a pass, s.alphaCompare acalpha = (a, pass) := ⟨_, _, rfl⟩
  obtain ⟨seed, rfl⟩ := State.alphaCompare_frame hstep
  cases hgate : pass && s.coverageGate o
  · exact ⟨seed, _, _, _, congrArg Blend.st (h.symm.trans (State.blend2cycle_rejected hstep hgate))⟩
  · obtain ⟨inv, hinv⟩ :=
      State.blendLast_frame (State.afterBlendFirst { s with gs.hid.iseed := seed }) true s.gs.der.partialreject2cycle o
    exact ⟨seed, inv, _, _, (congrArg Blend.st (h.symm.trans (State.blend2cycle_written hstep hgate))).trans hinv⟩

/-- The pixel is written where both gates pass; one that is not leaves what alpha compare leaves and its memory colour (R406). -/
theorem State.blend2cycle_gate {a : State} {pass : Bool} (hstep : s.alphaCompare acalpha = (a, pass)) :
    w = (pass && a.coverageGate o) ∧ (w = false → t = a.restoreMemory) := by
  cases hgate : pass && a.coverageGate o
  · obtain ⟨rfl, rfl, rfl⟩ := Blend.mk.inj (h.symm.trans (State.blend2cycle_rejected hstep hgate))
    exact ⟨rfl, fun _ => rfl⟩
  · obtain rfl : w = true := congrArg Blend.written (h.symm.trans (State.blend2cycle_written hstep hgate))
    exact ⟨rfl, fun hw => absurd hw (by decide)⟩

end TwoCycles

theorem exec_blend1cycle {t : State} {w : Bool} {c : Rgb 8} (h : s.blend1cycle o = ⟨t, w, c⟩) :
    exec (.blend1cycle o) s = .next { t with ret := .blended w c } := by
  show Host.Outcome.next ((s.blend1cycle o).st.setRet (.blended (s.blend1cycle o).written (s.blend1cycle o).rgb)) = _
  rw [h]
  rfl

theorem exec_blend2cycle {acalpha : BitVec 9} {t : State} {w : Bool} {c : Rgb 8} (h : s.blend2cycle o acalpha = ⟨t, w, c⟩) :
    exec (.blend2cycle o acalpha) s = .next { t with ret := .blended w c } := by
  show Host.Outcome.next
    ((s.blend2cycle o acalpha).st.setRet (.blended (s.blend2cycle o acalpha).written (s.blend2cycle o acalpha).rgb)) = _
  rw [h]
  rfl

end Passes

/-- Settles O48: a rejected pixel leaves what alpha compare leaves, any other runs the last cycle on it. -/
theorem blendOneCyclePass : Obligations.BlendOneCyclePass := by
  unfold Obligations.BlendOneCyclePass
  intro m a t o pass w rgb hcompare haret hrun hret
  have hstep := alphaCompare_of_exec hcompare haret
  obtain ⟨u, hu, ht⟩ := Blend.of_latched (b := m.blend1cycle o) hrun hret
  obtain ⟨seed, rfl⟩ := State.alphaCompare_frame hstep
  cases hgate : pass && m.coverageGate o
  · obtain ⟨rfl, rfl, rfl⟩ := Blend.mk.inj (hu.symm.trans (State.blend1cycle_rejected hstep hgate))
    exact ⟨hgate.symm, fun _ => ht, fun h => absurd h (by decide)⟩
  · have hlast := hu.symm.trans (State.blend1cycle_written hstep hgate)
    obtain rfl : w = true := congrArg Blend.written hlast
    exact ⟨hgate.symm, fun h => absurd h (by decide), fun _ => State.lastCycle false hlast.symm ht rfl⟩

/-- Settles O49: the frames of the passes and the gates of `BLEND_2CYCLE`; a written pixel ends in the last cycle on the state after
the first. -/
theorem blendTwoCyclePass : Obligations.BlendTwoCyclePass := by
  unfold Obligations.BlendTwoCyclePass
  constructor
  · intro m o acalpha
    obtain ⟨t, w, c, hone⟩ : ∃ t w c, m.blend1cycle o = ⟨t, w, c⟩ := ⟨_, _, _, rfl⟩
    obtain ⟨u, x, d, htwo⟩ : ∃ u x d, m.blend2cycle o acalpha = ⟨u, x, d⟩ := ⟨_, _, _, rfl⟩
    obtain ⟨a, pass, hstep⟩ : ∃ a pass, m.alphaCompare acalpha = (a, pass) := ⟨_, _, rfl⟩
    obtain ⟨hwritten, hrejected⟩ := State.blend2cycle_gate htwo hstep
    obtain ⟨_, rfl⟩ := State.alphaCompare_frame hstep
    obtain ⟨_, _, rfl⟩ := State.blend1cycle_frame hone
    obtain ⟨_, _, _, _, rfl⟩ := State.blend2cycle_frame htwo
    exact ⟨_, _, w, x, c, d, exec_blend1cycle hone, rfl, exec_blend2cycle htwo, rfl, _, pass, exec_alphaCompare hstep, hwritten,
      fun hx => congrArg (State.setRet · _) (hrejected hx)⟩
  · intro m a t o acalpha first d hcompare haret hcoverage hrun hret inv0 hfirst
    have hstep := alphaCompare_of_exec hcompare haret
    obtain ⟨u, hu, ht⟩ := Blend.of_latched (b := m.blend2cycle o acalpha) hrun hret
    obtain ⟨seed, rfl⟩ := State.alphaCompare_frame hstep
    have hgate : m.coverageGate o = true := State.coverageGate_iff.2 hcoverage
    have hlast := hu.symm.trans (State.blend2cycle_written hstep hgate)
    obtain rfl : inv0.blendEqC02 = first := Ret.rgb.inj (congrArg State.ret (Host.Outcome.next.inj hfirst))
    exact State.lastCycle true hlast.symm ht rfl

end Sys2Proof.Machine

end

/-! ## The Z-buffer family: depth codes, the Z word, the shifters and the depth comparison (`46_zbuffer.md`)

A depth lies in one of the eight tiers of R421, 2048 steps from `zdecAdd`; the code is the tier and the step, so its
decompression is the start of the depth's step (`zCompress_tier`, `zDecompress_toNat`). The comparison is given once in
integers: its tolerance, its terms, the arm of each mode; both kinds leave the state of `SHIFTERS` with the two flags set. -/

section

namespace Sys2Proof.Machine

/-! ### Depth codes (R421, R422, R427) -/

/-- Tier `e` of R421: 2048 steps of `2 ^ zdecShift e` from the offset of R422. -/
def InTier (e : BitVec 3) (z : BitVec 18) : Prop :=
  (zdecAdd e).toNat ≤ z.toNat ∧ z.toNat < (zdecAdd e).toNat + 2048 * 2 ^ zdecShift e

/-- The step of a depth in its tier: the mantissa of its code. -/
def tierStep (e : BitVec 3) (z : BitVec 18) : Nat := (z.toNat - (zdecAdd e).toNat) / 2 ^ zdecShift e

theorem tierStep_lt {e : BitVec 3} {z : BitVec 18} (h : InTier e z) : tierStep e z < 2048 := by
  obtain ⟨hlo, hhi⟩ := h
  exact (Nat.div_lt_iff_lt_mul (Nat.two_pow_pos _)).2 (by omega)

/-- An arm of R421: the shifted depth cut to the mantissa, and the tier above it. -/
theorem depthCode_toNat (e : BitVec 3) (v tag : BitVec 32) (htag : tag.toNat = 2 ^ 13 * e.toNat) :
    (((v &&& 0x1FFC) ||| tag).setWidth 16 : BitVec 16).toNat = e.toNat * 8192 + v.toNat / 4 % 2048 * 4 := by
  have he := e.isLt
  have hmask : (v &&& 0x1FFC).toNat = v.toNat / 4 % 2048 * 4 := and_field v.toNat 11 2
  rw [BitVec.toNat_setWidth, BitVec.toNat_or, hmask, htag, Nat.or_comm, ← Nat.two_pow_add_eq_or_of_lt (by omega)]
  omega

/-- The arm of tier `e`, whose offset is `lo` and whose steps are `w` long, with the depth shifted to `v`. -/
theorem depthCode_tier {z : BitVec 18} (e : BitVec 3) (lo w : Nat) {v tag : BitVec 32}
    (hlo : (zdecAdd e).toNat = lo) (hw : 2 ^ zdecShift e = w) (htag : tag.toNat = 2 ^ 13 * e.toNat)
    (hz : lo ≤ z.toNat ∧ z.toNat < lo + 2048 * w) (hv : v.toNat / 4 % 2048 = (z.toNat - lo) / w) :
    ∃ e, InTier e z ∧
      (((v &&& 0x1FFC) ||| tag).setWidth 16 : BitVec 16).toNat = e.toNat * 8192 + tierStep e z * 4 := by
  subst hlo hw
  exact ⟨e, hz, by rw [depthCode_toNat e v tag htag, hv, tierStep]⟩

/-- The code of a depth is its tier above its step. -/
theorem zCompress_tier (z : BitVec 18) :
    ∃ e, InTier e z ∧ (zCompress z).toNat = e.toNat * 8192 + tierStep e z * 4 := by
  have hz := z.isLt
  have hv : (z.setWidth 32).toNat = z.toNat := BitVec.toNat_setWidth_of_le (by decide)
  have hright : ∀ k, (z.setWidth 32 >>> k).toNat = z.toNat / 2 ^ k := fun k => by
    rw [BitVec.toNat_ushiftRight, hv, Nat.shiftRight_eq_div_pow]
  have hleft : ∀ k, (z.setWidth 32 <<< k).toNat = z.toNat * 2 ^ k % 2 ^ 32 := fun k => by
    rw [BitVec.toNat_shiftLeft, hv, Nat.shiftLeft_eq]
  unfold zCompress
  simp only
  split
  · rw [← BitVec.or_zero (x := _ &&& _)]
    exact depthCode_tier 0 0 64 rfl rfl rfl (by omega) (by rw [hright]; omega)
  split
  · exact depthCode_tier 1 0x20000 32 rfl rfl rfl (by omega) (by rw [hright]; omega)
  split
  · exact depthCode_tier 2 0x30000 16 rfl rfl rfl (by omega) (by rw [hright]; omega)
  split
  · exact depthCode_tier 3 0x38000 8 rfl rfl rfl (by omega) (by rw [hright]; omega)
  split
  · exact depthCode_tier 4 0x3C000 4 rfl rfl rfl (by omega) (by rw [hv]; omega)
  split
  · exact depthCode_tier 5 0x3E000 2 rfl rfl rfl (by omega) (by rw [hleft]; omega)
  split
  · exact depthCode_tier 6 0x3F000 1 rfl rfl rfl (by omega) (by rw [hleft]; omega)
  · exact depthCode_tier 7 0x3F800 1 rfl rfl rfl (by omega) (by rw [hleft]; omega)

theorem zCompress_mod_four (z : BitVec 18) : (zCompress z).toNat % 4 = 0 := by
  obtain ⟨e, -, hcode⟩ := zCompress_tier z
  omega

theorem zdecAdd_bound (e : BitVec 3) : (zdecAdd e).toNat + 2048 * 2 ^ zdecShift e ≤ 2 ^ 18 := by
  revert e
  decide

theorem zdecShift_dvd_add (e : BitVec 3) : 2 ^ zdecShift e ∣ (zdecAdd e).toNat := by
  revert e
  decide

/-- `Z_DECOMPRESS` of a tier and a step is where the step begins (R422). -/
theorem zDecompress_toNat {w : BitVec 16} {e : BitVec 3} {k : Nat} (hk : k < 2048) (hw : w.toNat = e.toNat * 8192 + k * 4) :
    (zDecompress w).toNat = (zdecAdd e).toNat + k * 2 ^ zdecShift e := by
  have hexp : w.extractLsb' 13 3 = e := by
    rw [← BitVec.toNat_inj, BitVec.extractLsb'_toNat, Nat.shiftRight_eq_div_pow]
    omega
  have hman : ((w.extractLsb' 2 11).setWidth 18).toNat = k := by
    rw [BitVec.toNat_setWidth, BitVec.extractLsb'_toNat, Nat.shiftRight_eq_div_pow]
    omega
  have hbound := zdecAdd_bound e
  have hstep : k * 2 ^ zdecShift e < 2048 * 2 ^ zdecShift e := Nat.mul_lt_mul_of_pos_right hk (Nat.two_pow_pos _)
  unfold zDecompress
  rw [hexp, BitVec.toNat_add, BitVec.toNat_shiftLeft, hman, Nat.shiftLeft_eq, Nat.mod_eq_of_lt (by omega),
    Nat.mod_eq_of_lt (by omega), Nat.add_comm]

/-- Where the step of a depth begins: the depth truncated to a multiple of the step's length. -/
theorem tierStep_start {e : BitVec 3} {z : BitVec 18} (h : InTier e z) :
    (zdecAdd e).toNat + tierStep e z * 2 ^ zdecShift e = z.toNat / 2 ^ zdecShift e * 2 ^ zdecShift e := by
  obtain ⟨hlo, -⟩ := h
  unfold tierStep
  obtain ⟨c, hc⟩ := zdecShift_dvd_add e
  obtain ⟨d, hd⟩ := Nat.exists_eq_add_of_le hlo
  rw [hd, hc, Nat.add_sub_cancel_left, Nat.mul_add_div (Nat.two_pow_pos _), Nat.add_mul, Nat.mul_comm c]

/-- Below 0x20000 the tier is 0, from 0x3F000 its steps are single depths. -/
theorem zdecAdd_ends (e : BitVec 3) : ((zdecAdd e).toNat < 0x20000 → e = 0) ∧
    (0x3F000 < (zdecAdd e).toNat + 2048 * 2 ^ zdecShift e → zdecShift e = 0) := by
  revert e
  decide

/-- Settles O50: the code names the tier and the step of the depth, decompression gives the start of that step. -/
theorem depthRoundTrip : Obligations.DepthRoundTrip := by
  unfold Obligations.DepthRoundTrip
  intro z e
  obtain ⟨t, htier, hcode⟩ := zCompress_tier z
  have hlt := tierStep_lt htier
  have he : e = t.toNat := by
    show (zCompress z).toNat / 8192 = t.toNat
    omega
  have hback := (zDecompress_toNat hlt hcode).trans (tierStep_start htier)
  obtain ⟨hlow, hhigh⟩ := zdecAdd_ends t
  obtain ⟨hlo, hhi⟩ := htier
  refine ⟨zCompress_mod_four z, he ▸ hback, fun hz => ?_, fun hz => ?_⟩
  · rw [hhigh (by omega), pow_zero, Nat.div_one, Nat.mul_one] at hback
    exact BitVec.eq_of_toNat_eq hback
  · rw [he, hlow (by omega)]
    rfl

/-! ### The Z word (R423, R440) -/

/-- The word `Z_STORE` writes: the code of the depth and the high half of the code of the slope. -/
theorem zWord_toNat (sz : BitVec 18) (dz : BitVec 4) :
    (zCompress sz ||| (dz.extractLsb' 2 2).setWidth 16).toNat = (zCompress sz).toNat + dz.toNat / 4 := by
  have hcode : 2 ^ 2 * ((zCompress sz).toNat / 4) = (zCompress sz).toNat := by
    have := zCompress_mod_four sz
    omega
  have hdz : ((dz.extractLsb' 2 2).setWidth 16).toNat = dz.toNat / 4 := by
    rw [BitVec.toNat_setWidth, BitVec.extractLsb'_toNat, Nat.shiftRight_eq_div_pow]
    omega
  rw [BitVec.toNat_or, hdz, ← hcode, ← Nat.two_pow_add_eq_or_of_lt (by omega)]

theorem rawDzOf_toNat (w : BitVec 16 × BitVec 2) : (rawDzOf w).toNat = 4 * (w.1.toNat % 4) + w.2.toNat := by
  unfold rawDzOf
  rw [toNat_append_eq_add, BitVec.extractLsb'_toNat]
  rfl

theorem exec_zLoad (m : State) (z : Word) {w : BitVec 16} {h : BitVec 2} (hread : m.pairRd16 z = (w, h)) :
    exec (.zLoad z) m = .next { m with ret := .zword w h } := by
  show Host.Outcome.next (m.setRet (.zword (m.pairRd16 z).1 (m.pairRd16 z).2)) = _
  rw [hread]
  rfl

/-- Settles O51: a store to a 16-bit unit and its hidden entry, and the read of the same unit. -/
theorem depthStoreAndLoad : Obligations.DepthStoreAndLoad := by
  unfold Obligations.DepthStoreAndLoad
  intro m z sz dz
  obtain ⟨hframe, hram, -, hhid⟩ :=
    m.pairWr16_frame z (zCompress sz ||| (dz.extractLsb' 2 2).setWidth 16) (dz.extractLsb' 0 2)
  exact ⟨_, _, _, rfl, hframe, ⟨hram, fun v hv => (hhid v).trans (if_neg hv)⟩, zWord_toNat sz dz,
    BitVec.extractLsb'_toNat .., exec_zLoad _ z (m.pairRd16_pairWr16 z _ _), exec_zLoad m z rfl⟩

/-! ### The shifters (R434) -/

theorem clampInt_eq_max_min {lo hi : Int} (h : lo ≤ hi) (v : Int) : clampInt v lo hi = max lo (min hi v) := by
  unfold clampInt
  split
  · omega
  · split <;> omega

theorem shifter_toNat (a b : BitVec 4) : ((shifter a b).toNat : Int) = max 0 (min 4 ((a.toNat : Int) - b.toNat)) := by
  unfold shifter
  rw [toNat_ofInt_eq_emod, clampInt_eq_max_min (by decide)]
  exact Int.emod_eq_of_lt (by omega) (by omega)

/-- `SHIFTERS` writes hidden registers only. -/
theorem exec_shifters (m : State) (dz raw : BitVec 4) :
    exec (.shifters dz raw) m = .next { m with gs.hid := (m.shifters dz raw).gs.hid } := rfl

/-- What `SHIFTERS` leaves in the hidden registers, pair by pair. -/
theorem State.shifters_hid (m : State) (dz raw : BitVec 4) : (m.shifters dz raw).gs.hid = { m.gs.hid with
    blshifta := if m.gs.der.realShiftersNeeded then shifter dz raw else m.gs.hid.blshifta
    blshiftb := if m.gs.der.realShiftersNeeded then shifter raw dz else m.gs.hid.blshiftb
    pastblshifta :=
      if m.gs.der.interpixelShiftersNeeded then shifter dz m.gs.hid.pastrawdzmem else m.gs.hid.pastblshifta
    pastblshiftb :=
      if m.gs.der.interpixelShiftersNeeded then shifter m.gs.hid.pastrawdzmem dz else m.gs.hid.pastblshiftb
    pastrawdzmem := raw } := by
  unfold State.shifters
  cases m.gs.der.realShiftersNeeded <;> cases m.gs.der.interpixelShiftersNeeded <;> rfl

/-- Settles O52: each pair is written exactly under its flag. -/
theorem shiftersClampDifferences : Obligations.ShiftersClampDifferences := by
  unfold Obligations.ShiftersClampDifferences
  intro m dz raw
  refine ⟨_, exec_shifters m dz raw, ?_⟩
  rw [State.shifters_hid]
  refine ⟨rfl, rfl, fun h => ?_, fun h => ?_, fun h => ?_, fun h => ?_⟩
  · simp only [h, if_true]
    exact ⟨shifter_toNat dz raw, shifter_toNat raw dz⟩
  · simp only [h, Bool.false_eq_true, if_false, and_self]
  · simp only [h, if_true]
    exact ⟨shifter_toNat dz _, shifter_toNat _ dz⟩
  · simp only [h, Bool.false_eq_true, if_false, and_self]

/-! ### The mode arms (R436 to R439) -/

theorem zOpaque_iff (x : ZTerms) : zOpaque x = true ↔
    x.max = true ∨ (x.overflow = true ∧ x.infront = true) ∨ (x.overflow = false ∧ x.nearer = true) := by
  unfold zOpaque
  cases x.overflow <;> simp

theorem zTransparent_iff (x : ZTerms) : zTransparent x = true ↔ x.infront = true ∨ x.max = true := by
  unfold zTransparent
  rw [Bool.or_eq_true]

theorem zDecal_iff (x : ZTerms) : zDecal x = true ↔ x.farther = true ∧ x.nearer = true ∧ x.max = false := by
  unfold zDecal
  rw [Bool.and_eq_true, Bool.and_eq_true, Bool.not_eq_true', and_assoc]

section Interpenetrating

variable (x : ZTerms) (oz sz : BitVec 18) (dz : BitVec 16) (cvg : BitVec 4)

/-- The guard of R437 fails unless the fragment is in front, within the tolerance and overflows. -/
theorem interpenetrating_guard : (!x.infront || !x.farther || !x.overflow) = true ↔
    ¬ (x.infront = true ∧ x.farther = true ∧ x.overflow = true) := by
  simp only [Bool.or_eq_true, Bool.not_eq_true', not_and_or, Bool.not_eq_true, or_assoc]

theorem zInterpenetrating_as_opaque (h : ¬ (x.infront = true ∧ x.farther = true ∧ x.overflow = true)) :
    zInterpenetrating x oz sz dz cvg = (zOpaque x, cvg) :=
  if_pos ((interpenetrating_guard x).2 h)

/-- A depth in units of the tolerance, kept to four bits. -/
theorem depthUnits_toNat (z : BitVec 18) (k : Nat) : ((z >>> k).setWidth 4).toNat = z.toNat / 2 ^ k % 16 := by
  rw [BitVec.toNat_setWidth, BitVec.toNat_ushiftRight, Nat.shiftRight_eq_div_pow]

/-- Otherwise it passes, with the coverage scaled by the depth difference. -/
theorem zInterpenetrating_scaled (h : x.infront = true ∧ x.farther = true ∧ x.overflow = true) :
    (zInterpenetrating x oz sz dz cvg).1 = true ∧
    (let k := (dzCompress dz).toNat
     ((zInterpenetrating x oz sz dz cvg).2.toNat : Int) =
      ((oz.toNat / 2 ^ k : Int) - sz.toNat / 2 ^ k) % 16 * cvg.toNat / 8 % 16) := by
  have hguard := mt (interpenetrating_guard x).1 (not_not.2 h)
  unfold zInterpenetrating
  rw [if_neg hguard]
  refine ⟨rfl, ?_⟩
  intro k
  have hcoeff : (((oz >>> k).setWidth 4 - (sz >>> k).setWidth 4 : BitVec 4).toNat : Int) =
      ((oz.toNat / 2 ^ k : Int) - sz.toNat / 2 ^ k) % 16 := by
    have hcast : ∀ z : BitVec 18, (z.toNat / 2 ^ k : Int) = ((z.toNat / 2 ^ k : Nat) : Int) := fun z => by push_cast; rfl
    rw [BitVec.toNat_sub, depthUnits_toNat, depthUnits_toNat, hcast, hcast]
    omega
  show ((BitVec.ofNat 4 (((oz >>> k).setWidth 4 - (sz >>> k).setWidth 4 : BitVec 4).toNat * cvg.toNat / 8)).toNat : Int) = _
  rw [← hcoeff, BitVec.toNat_ofNat]
  push_cast
  rfl

end Interpenetrating

theorem exec_zcompareInterpenetrating (m : State) (x : ZTerms) (oz sz : BitVec 18) (dz : BitVec 16) (cvg : BitVec 4) :
    exec (.zcompareInterpenetrating x oz sz dz cvg) m = .next { m with
      ret := .zpass (zInterpenetrating x oz sz dz cvg).1 (zInterpenetrating x oz sz dz cvg).2 } := rfl

/-- Settles O53: each arm answers its predicate; the two cases of the interpenetrating arm are those of its guard. -/
theorem depthModeArms : Obligations.DepthModeArms := by
  unfold Obligations.DepthModeArms
  intro m x oz sz dz cvg
  refine ⟨_, _, _, _, _, rfl, rfl, rfl, exec_zcompareInterpenetrating m x oz sz dz cvg, zOpaque_iff x, zTransparent_iff x,
    zDecal_iff x, fun h => ?_, fun hfront hfar hover => zInterpenetrating_scaled x oz sz dz cvg ⟨hfront, hfar, hover⟩⟩
  rw [zInterpenetrating_as_opaque x oz sz dz cvg h]
  exact ⟨rfl, rfl⟩

/-! ### The terms of a comparison (R424, R425, R430) -/

theorem dzDecompress_toNat (c : BitVec 4) : (dzDecompress c).toNat = 2 ^ c.toNat := by
  revert c
  decide

theorem dzDecompress_top (c : BitVec 4) : dzDecompress c ≠ 0x8000 ↔ c.toNat ≠ 15 := by
  revert c
  decide

/-- The floor of the tolerance is a whole step of the stored depth's tier. -/
theorem sixteen_div_two_pow {e : Nat} (he : e < 3) : 16 / 2 ^ e = 2 ^ (4 - e) :=
  Nat.pow_div (x := 2) (m := 4) (by omega) (by decide)

/-- The stored tolerance and `force_coplanar`, by the tier of the stored depth and the code of its slope. -/
theorem memTolerance_spec (w : BitVec 16) (raw : BitVec 4) :
    let e := w.toNat / 8192
    (memTolerance w raw).1.toNat =
      (if e < 3 then (if raw.toNat = 15 then 0xFFFF else max (2 * 2 ^ raw.toNat) (2 ^ (4 - e))) else 2 ^ raw.toNat) ∧
    ((memTolerance w raw).2 = true ↔ e < 3 ∧ raw.toNat = 15) := by
  intro e
  unfold memTolerance
  simp only [dzDecompress_top, dzDecompress_toNat]
  by_cases he : e < 3
  · rw [if_pos he, if_pos he]
    by_cases hraw : raw.toNat = 15
    · rw [if_neg (not_not.2 hraw), if_pos hraw]
      exact ⟨rfl, iff_of_true rfl ⟨he, hraw⟩⟩
    · rw [if_pos hraw, if_neg hraw]
      refine ⟨?_, iff_of_false Bool.false_ne_true (fun h => hraw h.2)⟩
      have hslope : 2 ^ raw.toNat ≤ 2 ^ 14 := Nat.pow_le_pow_right (by decide) (by omega)
      have hfloor : 2 ^ (4 - e) ≤ 2 ^ 4 := Nat.pow_le_pow_right (by decide) (by omega)
      rw [BitVec.toNat_ofNat, sixteen_div_two_pow he]
      split <;> omega
  · rw [if_neg he, if_neg he]
    exact ⟨dzDecompress_toNat raw, iff_of_false Bool.false_ne_true (fun h => he h.1)⟩

theorem memTolerance_pos (w : BitVec 16) (raw : BitVec 4) : 0 < (memTolerance w raw).1.toNat := by
  rw [(memTolerance_spec w raw).1]
  have := Nat.two_pow_pos raw.toNat
  split
  · split <;> omega
  · omega

/-- `dzcmp` is the highest set bit (R424). -/
theorem dzcmp_toNat {v : BitVec 16} (hv : 0 < v.toNat) :
    ∃ k, (dzcmp v).toNat = 2 ^ k ∧ (dzcmp v).toNat ≤ v.toNat ∧ v.toNat < 2 * (dzcmp v).toNat := by
  obtain ⟨k, hk, htop, hle, hlt⟩ := topBit_eq_two_pow hv v.isLt
  have hval : (dzcmp v).toNat = 2 ^ k := by
    unfold dzcmp
    rw [htop, BitVec.toNat_ofNat, Nat.mod_eq_of_lt (Nat.pow_lt_pow_right (by decide) hk)]
  rw [hval]
  exact ⟨k, rfl, hle, by rwa [Nat.pow_succ'] at hlt⟩

theorem cvgOverflow_iff (memcvg : BitVec 3) (cvg : BitVec 4) :
    cvgOverflow memcvg cvg = true ↔ (memcvg.toNat + cvg.toNat) / 8 % 2 = 1 := by
  unfold cvgOverflow
  rw [Nat.testBit_eq_decide_div_mod_eq, decide_eq_true_iff]

/-- The terms as comparisons of numbers. -/
theorem zTerms_iff (oz sz : BitVec 18) (dn : BitVec 16) (coplanar overflow : Bool) :
    let x := zTerms oz sz dn coplanar overflow
    (x.infront = true ↔ sz.toNat < oz.toNat) ∧
    (x.farther = true ↔ coplanar = true ∨ oz.toNat ≤ sz.toNat + 8 * dn.toNat) ∧
    (x.nearer = true ↔ coplanar = true ∨ sz.toNat ≤ oz.toNat + 8 * dn.toNat) ∧
    (x.max = true ↔ oz.toNat = 0x3FFFF) := by
  intro x
  refine ⟨decide_eq_true_iff.trans (by omega), ?_, ?_, beq_iff_eq.trans BitVec.toNat_inj.symm⟩
  · exact (Bool.or_eq_true _ _).to_iff.trans (or_congr_right (decide_eq_true_iff.trans (by omega)))
  · exact (Bool.or_eq_true _ _).to_iff.trans (or_congr_right (decide_eq_true_iff.trans (by omega)))

/-! ### The comparison (R430, R432) -/

section Comparison

variable (m : State) (o : ZOperands)

/-- The code of the stored slope. -/
def State.storedDz : BitVec 4 := rawDzOf (m.pairRd16 o.zbcur)

/-- The stored depth. -/
def State.storedDepth : BitVec 18 := zDecompress (m.pairRd16 o.zbcur).1

/-- The stored tolerance and `force_coplanar`. -/
def State.storedTolerance : BitVec 16 × Bool := memTolerance (m.pairRd16 o.zbcur).1 (m.storedDz o)

/-- The tolerance of both slopes, before the shift. -/
def State.jointTolerance : BitVec 16 := dzcmp (o.dzpix ||| (m.storedTolerance o).1)

/-- The terms of the comparison with the stored depth. -/
def State.storedTerms : ZTerms :=
  zTerms (m.storedDepth o) o.sz (m.jointTolerance o) (m.storedTolerance o).2 (cvgOverflow o.memcvg o.cvg)

/-- The answer of the arm of `gs.om.z_mode`. -/
def State.armAnswer : Bool × BitVec 4 :=
  zArm (Om.zMode m.gs.om) (m.storedTerms o) (m.storedDepth o) o.sz (m.jointTolerance o) o.cvg

/-- The joint tolerance is the highest set bit of the two tolerances together; the stored one has a bit set. -/
theorem State.jointTolerance_toNat : ∃ k, (m.jointTolerance o).toNat = 2 ^ k ∧
    (m.jointTolerance o).toNat ≤ o.dzpix.toNat ||| (m.storedTolerance o).1.toNat ∧
    o.dzpix.toNat ||| (m.storedTolerance o).1.toNat < 2 * (m.jointTolerance o).toNat := by
  have hpos : 0 < (o.dzpix ||| (m.storedTolerance o).1).toNat := by
    rw [BitVec.toNat_or]
    exact Nat.lt_of_lt_of_le (memTolerance_pos _ _) Nat.right_le_or
  exact BitVec.toNat_or .. ▸ dzcmp_toNat hpos

theorem exec_zcompare_of_disabled (h : Om.zCompareEn m.gs.om = false) :
    exec (.zcompare o) m = exec (.zcompareDisabled o) m := by
  have hoff : m.zcompare o = m.zcompareDisabled o := if_neg (by rw [h]; decide)
  rw [exec_zcompare hoff]
  rfl

/-- `ZCOMPARE_DISABLED` runs `SHIFTERS` on 0xF, sets the flags and passes (R432). -/
theorem exec_zcompareDisabled : exec (.zcompareDisabled o) m = .next { m with
    gs.hid := (m.shifters o.dzpixenc 15).gs.hid
    gs.flags.blendEn := Om.forceBlend m.gs.om || (!cvgOverflow o.memcvg o.cvg && Om.antialiasEn m.gs.om)
    gs.flags.prewrap := cvgOverflow o.memcvg o.cvg
    ret := .zpass true o.cvg } := rfl

/-- The disabled comparison with its flags as predicates. -/
theorem zcompareDisabled_answer : ∃ (h : HiddenRegs) (be pw : Bool),
    exec (.zcompareDisabled o) m = .next { m with
      gs.hid := h, gs.flags.blendEn := be, gs.flags.prewrap := pw, ret := .zpass true o.cvg } ∧
    exec (.shifters o.dzpixenc 15) m = .next { m with gs.hid := h } ∧
    (pw = true ↔ (o.memcvg.toNat + o.cvg.toNat) / 8 % 2 = 1) ∧
    (be = true ↔ Om.forceBlend m.gs.om = true ∨ (pw = false ∧ Om.antialiasEn m.gs.om = true)) := by
  refine ⟨_, _, _, exec_zcompareDisabled m o, exec_shifters m _ _, cvgOverflow_iff _ _, ?_⟩
  rw [Bool.or_eq_true, Bool.and_eq_true, Bool.not_eq_true']

/-- The enabled comparison runs `SHIFTERS` on the stored code, sets the flags and answers as the arm does (R430). -/
theorem exec_zcompare_of_enabled (h : Om.zCompareEn m.gs.om = true) : exec (.zcompare o) m = .next { m with
    gs.hid := (m.shifters o.dzpixenc (m.storedDz o)).gs.hid
    gs.flags.blendEn := Om.forceBlend m.gs.om ||
      (!(m.storedTerms o).overflow && Om.antialiasEn m.gs.om && (m.storedTerms o).farther)
    gs.flags.prewrap := (m.storedTerms o).overflow
    ret := .zpass (m.armAnswer o).1 (m.armAnswer o).2 } := by
  have hon : m.zcompare o = m.zcompareEnabled o := if_pos h
  rw [exec_zcompare hon]
  rfl

end Comparison

/-- Settles O54: off, `ZCOMPARE` is `ZCOMPARE_DISABLED`; on, its terms are the comparisons of `zTerms_iff` under the joint
tolerance, and its answer is that of the arm selected. -/
theorem depthCompare : Obligations.DepthCompare := by
  unfold Obligations.DepthCompare
  refine ⟨fun m o => ?_, fun m o => ?_⟩
  · cases hen : Om.zCompareEn m.gs.om with
    | false =>
      have hoff := exec_zcompare_of_disabled m o hen
      obtain ⟨h, be, pw, hexec, hshift, hpw, hbe⟩ := zcompareDisabled_answer m o
      refine ⟨h, true, o.cvg, be, pw, hoff.trans hexec, hpw, fun _ => ⟨hoff, hshift, rfl, rfl, ?_⟩,
        fun h => absurd h (by decide)⟩
      rw [hbe, ← hpw, Bool.not_eq_true]
    | true =>
      have hraw : (m.storedDz o).toNat = _ := rawDzOf_toNat (m.pairRd16 o.zbcur)
      obtain ⟨hmem, hcoplanar⟩ := memTolerance_spec (m.pairRd16 o.zbcur).1 (m.storedDz o)
      rw [hraw] at hmem hcoplanar
      obtain ⟨hfront, hfar, hnear, hmax⟩ := zTerms_iff (m.storedDepth o) o.sz (m.jointTolerance o) (m.storedTolerance o).2
        (cvgOverflow o.memcvg o.cvg)
      have hover := cvgOverflow_iff o.memcvg o.cvg
      have htol := m.jointTolerance_toNat o
      refine ⟨_, (m.armAnswer o).1, (m.armAnswer o).2, _, _, exec_zcompare_of_enabled m o hen, hover,
        fun h => absurd h (by decide), fun _ => ⟨m.storedDepth o, (m.jointTolerance o).toNat, m.storedTerms o, m.storedDz o,
          rfl, hraw, exec_shifters m _ _, hmem ▸ htol, hfront, hfar.trans (or_congr_left hcoplanar),
          hnear.trans (or_congr_left hcoplanar), hmax, hover, ?_, ?_⟩⟩
      · rw [← hover]
        show _ ↔ _ ∨ ¬ (m.storedTerms o).overflow = true ∧ _
        simp only [Bool.or_eq_true, Bool.and_eq_true, Bool.not_eq_true', Bool.not_eq_true, and_assoc]
      · unfold State.armAnswer
        rw [BitVec.ofNat_toNat, BitVec.setWidth_eq]
        obtain hz | hz | hz | hz := size_cases (Om.zMode m.gs.om) <;> rw [hz]
        · exact ⟨rfl, rfl⟩
        · rfl
        · exact ⟨rfl, rfl⟩
        · exact ⟨rfl, rfl⟩
  · obtain ⟨h, be, pw, hexec, hshift, hpw, hbe⟩ := zcompareDisabled_answer m o
    exact ⟨h, be, pw, hexec, hshift, hpw.trans (by omega), hbe⟩

end Sys2Proof.Machine

end

/-! ## The coverage and dither family: `CVG_BUILD`, `CVG_LOOKUP` and the dither unit (`47_coverage_dither.md`)

`CVG_BUILD` is a sequence of writes of coverage entries, so what every such write keeps, it keeps. On an entry of the span each
sub-scanline replaces its own row of samples and no other. `CVG_LOOKUP` searches the samples in raster order. `DITHER_NOISE`
draws its noise first and then runs one arm. -/

section

namespace Sys2Proof.Machine

/-! ### The coverage buffer (R454) -/

/-- What the writes of the entries `lo .. hi` keep, the loop over them keeps. -/
theorem State.mapCvg_inv {s : State} {P : State → Prop} {f : Byte → Byte} {lo hi : Int} (hlo : 0 ≤ lo)
    (hput : ∀ t (q : Nat) v, lo ≤ q → q ≤ hi → P t → P (t.putCvg q v)) (h : P s) : P (s.mapCvg f lo hi) :=
  forUp_inv (fun _ t => P t) _ _ _ (fun i t hl hr ht =>
    hput t i.toNat _ (by omega) (by have := lt_count hr hl; omega) ht) h

/-- Entry `p` after a loop over the entries `lo .. hi`. -/
theorem State.mapCvg_cvgAt (s : State) (f : Byte → Byte) {lo : Int} (hi : Int) (hlo : 0 ≤ lo) {p : Nat}
    (hp : p < Config.cvgbufLen) : (s.mapCvg f lo hi).cvgAt p = if lo ≤ p ∧ p ≤ hi then f (s.cvgAt p) else s.cvgAt p := by
  have hinv := forUp_inv (body := fun i t => t.putCvg i.toNat (f (t.cvgAt i.toNat)))
    (fun i t => t.cvgAt p = if lo ≤ p ∧ p < i then f (s.cvgAt p) else s.cvgAt p) (count lo hi) lo s
    (fun i t hl _ ht => ?_) (if_neg (by omega)).symm
  · refine hinv.trans (if_congr ?_ rfl rfl)
    unfold count
    omega
  · rw [State.putCvg_cvgAt]
    by_cases hpi : p = i.toNat
    · rw [if_pos ⟨hpi, hpi ▸ hp⟩, if_pos (by omega), ← hpi, ht, if_neg (by omega)]
    · rw [if_neg (fun h => hpi h.1), ht]
      exact if_congr (by omega) rfl rfl

/-- Or samples into an entry. -/
def State.orCvg (s : State) (q : Nat) (x : Byte) : State := s.putCvg q (s.cvgAt q ||| x)

theorem State.orCvg_cvgAt (s : State) (p : Nat) {q : Nat} (hq : q < Config.cvgbufLen) (x : Byte) :
    (s.orCvg q x).cvgAt p = if p = q then s.cvgAt p ||| x else s.cvgAt p := by
  unfold State.orCvg
  rw [State.putCvg_cvgAt]
  by_cases h : p = q
  · rw [if_pos ⟨h, hq⟩, if_pos h, h]
  · rw [if_neg (fun k => h k.1), if_neg h]

/-- A crossing lies in the buffer (R454). -/
theorem crossing_lt (x : BitVec 13) : x.toNat / 8 < Config.cvgbufLen := by
  unfold Config.cvgbufLen
  omega

/-! ### The samples of one sub-scanline (R452, R453) -/

section Columns

variable (k : Fin 4) (l r : BitVec 13) (p : Nat)

/-- The samples of sub-scanline `k` in a mask. -/
def rowMask : Byte := columnMask k <<< maskShift k

/-- The columns of sub-scanline `k` that are covered at pixel `p`, between the crossings `l` and `r`. -/
def coveredColumns : Byte :=
  if p < l.toNat / 8 ∨ r.toNat / 8 < p then 0
  else if l.toNat / 8 = r.toNat / 8 then rightHex r (columnMask k) &&& leftHex l (columnMask k)
  else if p = l.toNat / 8 then leftHex l (columnMask k)
  else if p = r.toNat / 8 then rightHex r (columnMask k)
  else columnMask k

theorem leftHex_and_self (m : Byte) : leftHex l m &&& m = leftHex l m := by
  unfold leftHex
  rw [BitVec.and_assoc, BitVec.and_self]

theorem rightHex_and_self (m : Byte) : rightHex r m &&& m = rightHex r m := by
  unfold rightHex
  rw [BitVec.and_assoc, BitVec.and_self]

/-- Only columns the sub-scanline samples are covered. -/
theorem coveredColumns_and : coveredColumns k l r p &&& columnMask k = coveredColumns k l r p := by
  unfold coveredColumns
  repeat' split
  · exact BitVec.zero_and
  · rw [BitVec.and_assoc, leftHex_and_self]
  · exact leftHex_and_self l _
  · exact rightHex_and_self r _
  · exact BitVec.and_self

theorem columnMask_toNat : (columnMask k).toNat = if k.val % 2 = 0 then 0xA else 0x5 := by
  revert k
  decide

theorem leftHex_toNat (m : Byte) : (leftHex l m).toNat = 0x0F / 2 ^ ((l.toNat % 8 + 1) / 2) &&& m.toNat := by
  unfold leftHex
  rw [BitVec.toNat_and, BitVec.toNat_ushiftRight, Nat.shiftRight_eq_div_pow]
  rfl

/-- The low four columns of `RIGHTHEX`, all that a column mask keeps. -/
theorem rightHex_toNat : (rightHex r (columnMask k)).toNat =
    0xF0 / 2 ^ ((r.toNat % 8 + 1) / 2) % 16 &&& (columnMask k).toNat := by
  have hmask : 15 &&& (columnMask k).toNat = (columnMask k).toNat := by
    revert k
    decide
  unfold rightHex
  rw [BitVec.toNat_and, BitVec.toNat_ushiftRight, Nat.shiftRight_eq_div_pow,
    ← Nat.and_two_pow_sub_one_eq_mod _ 4, Nat.and_assoc, hmask]
  rfl

/-- A row of columns in its nibble of the mask. -/
theorem shiftRow_toNat {x : Byte} (hx : x &&& columnMask k = x) :
    (x <<< maskShift k).toNat = if k.val < 2 then 16 * x.toNat else x.toNat := by
  have hlt : x.toNat < 16 := by
    have hle : x.toNat ≤ (columnMask k).toNat := by
      rw [← hx, BitVec.toNat_and]
      exact Nat.and_le_right
    rw [columnMask_toNat] at hle
    split at hle <;> omega
  rw [BitVec.toNat_shiftLeft, Nat.shiftLeft_eq]
  unfold maskShift
  split <;> omega

/-- The columns of a valid sub-scanline are the closed form. -/
theorem coveredColumns_toNat :
    (coveredColumns k l r p <<< maskShift k).toNat = subMask k.val false l.toNat r.toNat p := by
  have hboth : (rightHex r (columnMask k) &&& leftHex l (columnMask k)).toNat =
      0x0F / 2 ^ ((l.toNat % 8 + 1) / 2) &&& 0xF0 / 2 ^ ((r.toNat % 8 + 1) / 2) % 16 &&& (columnMask k).toNat := by
    rw [BitVec.toNat_and, leftHex_toNat, rightHex_toNat, Nat.and_comm, Nat.and_assoc, Nat.and_left_comm (columnMask k).toNat,
      Nat.and_self, Nat.and_assoc]
  rw [shiftRow_toNat k (coveredColumns_and k l r p)]
  unfold coveredColumns subMask
  simp only [apply_ite BitVec.toNat, hboth, leftHex_toNat, rightHex_toNat, columnMask_toNat, Bool.false_eq_true, if_false]
  rfl

end Columns

/-! ### One sub-scanline of the span (R454) -/

section Subscanline

variable (s : State) (lo hi : Nat) (k : Fin 4) (l r : BitVec 13)

/-- A mask without the samples of sub-scanline `k`. -/
def clearRow (b : Byte) : Byte := b &&& ~~~rowMask k

/-- The two clearing loops of a valid sub-scanline. -/
def State.clearOutside : State :=
  (s.mapCvg (clearRow k) lo (if (l.toNat / 8 : Int) < hi then l.toNat / 8 else hi)).mapCvg (clearRow k)
    (if (r.toNat / 8 : Int) < lo then lo else r.toNat / 8) hi

theorem State.cvgSub_invalid : s.cvgSub lo hi k true l r = s.mapCvg (clearRow k) lo hi := rfl

theorem State.cvgSub_valid : s.cvgSub lo hi k false l r =
    if l.toNat / 8 < r.toNat / 8 then
      ((s.clearOutside lo hi k l r).orCvg (r.toNat / 8) (rightHex r (columnMask k) <<< maskShift k)).orCvg (l.toNat / 8)
        (leftHex l (columnMask k) <<< maskShift k)
    else if r.toNat / 8 = l.toNat / 8 then
      (s.clearOutside lo hi k l r).orCvg (l.toNat / 8)
        ((rightHex r (columnMask k) &&& leftHex l (columnMask k)) <<< maskShift k)
    else s.clearOutside lo hi k l r :=
  if_congr (by omega) rfl (if_congr (by omega) rfl rfl)

theorem clearRow_clearRow (b : Byte) : clearRow k (clearRow k b) = clearRow k b := by
  unfold clearRow
  rw [BitVec.and_assoc, BitVec.and_self]

/-- Entry `p` of the buffer after a valid sub-scanline's loops: cleared up to the left and from the right crossing. -/
theorem State.clearOutside_cvgAt {p : Nat} (hlo : lo ≤ p) (hhi : p ≤ hi) (hp : p < Config.cvgbufLen) :
    (s.clearOutside lo hi k l r).cvgAt p =
      if p ≤ l.toNat / 8 ∨ r.toNat / 8 ≤ p then clearRow k (s.cvgAt p) else s.cvgAt p := by
  unfold State.clearOutside
  rw [State.mapCvg_cvgAt _ _ _ (by split <;> omega) hp, State.mapCvg_cvgAt _ _ _ (Int.natCast_nonneg lo) hp]
  by_cases hl : p ≤ l.toNat / 8 <;> by_cases hr : r.toNat / 8 ≤ p
  · rw [if_pos (by split <;> omega), if_pos (by split <;> omega), if_pos (.inl hl), clearRow_clearRow]
  · rw [if_neg (by split <;> omega), if_pos (by split <;> omega), if_pos (.inl hl)]
  · rw [if_pos (by split <;> omega), if_neg (by split <;> omega), if_pos (.inr hr)]
  · rw [if_neg (by split <;> omega), if_neg (by split <;> omega), if_neg (by omega)]

/-- A mask with row `k` replaced by the columns `x`. -/
def setRow (b x : Byte) : Byte := clearRow k b ||| x <<< maskShift k

theorem setRow_none (b : Byte) : setRow k b 0 = clearRow k b := by
  unfold setRow
  simp

/-- A mask that has the whole row keeps it. -/
theorem setRow_all {b : Byte} (hb : b &&& rowMask k = rowMask k) : setRow k b (columnMask k) = b := by
  unfold setRow clearRow
  calc (b &&& ~~~rowMask k) ||| rowMask k
      = (b &&& ~~~rowMask k) ||| (b &&& rowMask k) := by rw [hb]
    _ = b := by rw [← BitVec.and_or_distrib_left, BitVec.not_or_self, BitVec.and_allOnes]

/-- A valid sub-scanline replaces its row of a mask that has it whole by the covered columns. -/
theorem State.cvgSub_valid_cvgAt {p : Nat} (hlo : lo ≤ p) (hhi : p ≤ hi) (hp : p < Config.cvgbufLen)
    (hb : s.cvgAt p &&& rowMask k = rowMask k) :
    (s.cvgSub lo hi k false l r).cvgAt p = setRow k (s.cvgAt p) (coveredColumns k l r p) := by
  have hclear := s.clearOutside_cvgAt lo hi k l r hlo hhi hp
  have hright := crossing_lt r
  have hleft := crossing_lt l
  rw [State.cvgSub_valid]
  unfold coveredColumns
  rcases Nat.lt_trichotomy (l.toNat / 8) (r.toNat / 8) with h | h | h
  · rw [if_pos h, State.orCvg_cvgAt _ _ hleft, State.orCvg_cvgAt _ _ hright, hclear, if_neg (Nat.ne_of_lt h)]
    by_cases hout : p < l.toNat / 8 ∨ r.toNat / 8 < p
    · rw [if_neg (by omega), if_neg (by omega), if_pos (by omega), if_pos hout, setRow_none]
    rw [if_neg hout]
    by_cases hl : p = l.toNat / 8
    · rw [if_pos hl, if_neg (by omega), if_pos (by omega), if_pos hl]
      rfl
    rw [if_neg hl, if_neg hl]
    by_cases hr : p = r.toNat / 8
    · rw [if_pos hr, if_pos (by omega), if_pos hr]
      rfl
    · rw [if_neg hr, if_neg (by omega), if_neg hr, setRow_all k hb]
  · rw [if_neg (by omega), if_pos h.symm, State.orCvg_cvgAt _ _ hleft, hclear,
      if_pos (show p ≤ l.toNat / 8 ∨ r.toNat / 8 ≤ p by omega)]
    by_cases hl : p = l.toNat / 8
    · rw [if_pos hl, if_neg (by omega), if_pos h]
      rfl
    · rw [if_neg hl, if_pos (by omega), setRow_none]
  · rw [if_neg (by omega), if_neg (by omega), hclear, if_pos (by omega), if_pos (by omega), setRow_none]

/-- What the writes inside the span and at the two crossings keep, a sub-scanline keeps. -/
theorem State.cvgSub_inv {P : State → Prop} {inval : Bool}
    (hput : ∀ t q v, (lo ≤ q ∧ q ≤ hi) ∨ q = l.toNat / 8 ∨ q = r.toNat / 8 → P t → P (t.putCvg q v)) (h : P s) :
    P (s.cvgSub lo hi k inval l r) := by
  have hspan : ∀ t (q : Nat) v, (lo : Int) ≤ q → (q : Int) ≤ hi → P t → P (t.putCvg q v) :=
    fun t q v hlo hhi => hput t q v (.inl (by omega))
  cases inval with
  | true =>
    rw [State.cvgSub_invalid]
    exact State.mapCvg_inv (Int.natCast_nonneg lo) hspan h
  | false =>
    have hclear : P (s.clearOutside lo hi k l r) := by
      refine State.mapCvg_inv (by split <;> omega) (fun t q v hl hr => hspan t q v ?_ hr)
        (State.mapCvg_inv (Int.natCast_nonneg lo) (fun t q v hl hr => hspan t q v hl ?_) h)
      · split at hl <;> omega
      · split at hr <;> omega
    rw [State.cvgSub_valid]
    split
    · exact hput _ _ _ (.inr (.inl rfl)) (hput _ _ _ (.inr (.inr rfl)) hclear)
    · split
      · exact hput _ _ _ (.inr (.inl rfl)) hclear
      · exact hclear

end Subscanline

/-! ### The rows of a mask (R452) -/

section Rows

variable {j k : Fin 4} {x : Byte}

theorem clearRow_or (k : Fin 4) (a b : Byte) : clearRow k (a ||| b) = clearRow k a ||| clearRow k b :=
  BitVec.and_or_distrib_right

theorem row_and_rowMask (hx : x &&& columnMask k = x) : x <<< maskShift k &&& rowMask k = x <<< maskShift k := by
  unfold rowMask
  rw [← BitVec.shiftLeft_and_distrib, hx]

theorem rowMask_disjoint : j ≠ k → rowMask j &&& rowMask k = 0 := by
  revert j k
  decide

theorem rowMask_and_not : j ≠ k → rowMask j &&& ~~~rowMask k = rowMask j := by
  revert j k
  decide

/-- Clearing one row leaves the columns of another. -/
theorem clearRow_row (hjk : j ≠ k) (hx : x &&& columnMask j = x) : clearRow k (x <<< maskShift j) = x <<< maskShift j := by
  unfold clearRow
  rw [← row_and_rowMask hx, BitVec.and_assoc, rowMask_and_not hjk]

/-- Replacing one row leaves every other. -/
theorem setRow_and_other (hjk : j ≠ k) (hx : x &&& columnMask j = x) (b : Byte) :
    setRow j b x &&& rowMask k = b &&& rowMask k := by
  unfold setRow clearRow
  rw [← row_and_rowMask hx, BitVec.and_or_distrib_right, BitVec.and_assoc, BitVec.and_assoc, BitVec.and_comm (~~~rowMask j),
    rowMask_and_not hjk.symm, rowMask_disjoint hjk]
  simp

/-- The four rows make up the mask. -/
theorem setRow_rows (b : Byte) {x : Fin 4 → Byte} (hx : ∀ k, x k &&& columnMask k = x k) :
    setRow 3 (setRow 2 (setRow 1 (setRow 0 b (x 0)) (x 1)) (x 2)) (x 3) =
      x 0 <<< maskShift 0 ||| x 1 <<< maskShift 1 ||| x 2 <<< maskShift 2 ||| x 3 <<< maskShift 3 := by
  have hclear : clearRow 3 (clearRow 2 (clearRow 1 (clearRow 0 b))) = 0#8 := by
    revert b
    decide
  have hrow := fun {j k : Fin 4} (hjk : j ≠ k) => clearRow_row hjk (hx j)
  unfold setRow
  simp (disch := decide) only [clearRow_or, hrow, hclear]
  rw [BitVec.zero_or]

end Rows

/-! ### The four sub-scanlines (R454) -/

section Line

variable (s : State) (lo hi : Nat) (inval : Fin 4 → Bool) (left right : Fin 4 → BitVec 13)

/-- Sub-scanline `k` of a span. -/
def State.cvgRow (k : Fin 4) : State := s.cvgSub lo hi k (inval k) (left k) (right k)

/-- `CVG_BUILD` on a span that is not negative, its edges in the roles `flip` gives them. -/
def State.cvgLine : State :=
  ((((s.mapCvg (fun _ => 0xFF) lo hi).cvgRow lo hi inval left right 0).cvgRow lo hi inval left right 1).cvgRow
    lo hi inval left right 2).cvgRow lo hi inval left right 3

/-- Row `k` of the mask of pixel `p`. -/
def lineColumns (p : Nat) (k : Fin 4) : Byte := if inval k then 0 else coveredColumns k (left k) (right k) p

theorem subMask_invalid (k l r p : Nat) : subMask k true l r p = 0 := by
  unfold subMask
  simp

theorem lineColumns_and (p : Nat) (k : Fin 4) :
    lineColumns inval left right p k &&& columnMask k = lineColumns inval left right p k := by
  unfold lineColumns
  split
  · exact BitVec.zero_and
  · exact coveredColumns_and k _ _ p

theorem lineColumns_toNat (p : Nat) (k : Fin 4) : (lineColumns inval left right p k <<< maskShift k).toNat =
    subMask k.val (inval k) (left k).toNat (right k).toNat p := by
  unfold lineColumns
  cases inval k with
  | true =>
    rw [if_pos rfl, subMask_invalid]
    simp
  | false => exact coveredColumns_toNat k _ _ p

theorem State.cvgRow_cvgAt {p : Nat} (hlo : lo ≤ p) (hhi : p ≤ hi) (hp : p < Config.cvgbufLen) (k : Fin 4)
    (hb : s.cvgAt p &&& rowMask k = rowMask k) :
    (s.cvgRow lo hi inval left right k).cvgAt p = setRow k (s.cvgAt p) (lineColumns inval left right p k) := by
  unfold State.cvgRow lineColumns
  cases inval k with
  | true =>
    rw [State.cvgSub_invalid, State.mapCvg_cvgAt _ _ _ (Int.natCast_nonneg lo) hp, if_pos (by omega), if_pos rfl, setRow_none]
  | false => exact s.cvgSub_valid_cvgAt lo hi k _ _ hlo hhi hp hb

/-- Every mask of the span is the union of its four rows (R454). -/
theorem State.cvgLine_cvgAt {p : Nat} (hlo : lo ≤ p) (hhi : p ≤ hi) (hp : p < Config.cvgbufLen) :
    ((s.cvgLine lo hi inval left right).cvgAt p).toNat =
      subMask 0 (inval 0) (left 0).toNat (right 0).toNat p ||| subMask 1 (inval 1) (left 1).toNat (right 1).toNat p |||
      subMask 2 (inval 2) (left 2).toNat (right 2).toNat p ||| subMask 3 (inval 3) (left 3).toNat (right 3).toNat p := by
  have hcols := lineColumns_and inval left right p
  have hrow := fun (t : State) k hb => t.cvgRow_cvgAt lo hi inval left right hlo hhi hp k hb
  have hother := fun {j k : Fin 4} (hjk : j ≠ k) => setRow_and_other hjk (hcols j)
  have hpurge : (s.mapCvg (fun _ => 0xFF) lo hi).cvgAt p = 0xFF := by
    rw [State.mapCvg_cvgAt _ _ _ (Int.natCast_nonneg lo) hp, if_pos (by omega)]
  have h0 := hrow _ 0 (by rw [hpurge]; decide)
  have h1 := hrow _ 1 (by rw [h0, hother (by decide), hpurge]; decide)
  have h2 := hrow _ 2 (by rw [h1, hother (by decide), h0, hother (by decide), hpurge]; decide)
  have h3 := hrow _ 3 (by rw [h2, hother (by decide), h1, hother (by decide), h0, hother (by decide), hpurge]; decide)
  unfold State.cvgLine
  rw [h3, h2, h1, h0, setRow_rows _ hcols]
  simp only [BitVec.toNat_or, lineColumns_toNat]
  rfl

/-- What the writes inside the span and at the crossings keep, `CVG_BUILD` keeps. -/
theorem State.cvgLine_inv {P : State → Prop} (hput : ∀ t q v, ((lo ≤ q ∧ q ≤ hi) ∨
      ∃ k, q = (left k).toNat / 8 ∨ q = (right k).toNat / 8) → P t → P (t.putCvg q v)) (h : P s) :
    P (s.cvgLine lo hi inval left right) := by
  have hrow : ∀ t k, P t → P (t.cvgRow lo hi inval left right k) := fun t k ht =>
    t.cvgSub_inv lo hi k _ _ (fun t q v hq => hput t q v (hq.imp_right fun hq => ⟨k, hq⟩)) ht
  exact hrow _ _ (hrow _ _ (hrow _ _ (hrow _ _ (State.mapCvg_inv (Int.natCast_nonneg lo)
    (fun t q v hlo hhi => hput t q v (.inl (by omega))) h))))

end Line

theorem State.putCvg_frame (s : State) (q : Nat) (v : Byte) :
    s.putCvg q v = { s with gs.cvgbuf := (s.putCvg q v).gs.cvgbuf } := by
  unfold State.putCvg
  split <;> rfl

/-- `CVG_BUILD` on a span with these bounds, invalid sub-scanlines and crossings. -/
def State.cvgSpan (s : State) (lo hi : Nat) (inval : Fin 4 → Bool) (left right : Fin 4 → BitVec 13) : State :=
  if hi < lo then s else s.cvgLine lo hi inval left right

/-- "With `flip = 1` the major edge is the left boundary" (R454). -/
theorem State.cvgBuild_major_left (s : State) (i : Int) : s.cvgBuild i true =
    s.cvgSpan (s.spanAt i).rx.toNat (s.spanAt i).lx.toNat ((s.spanAt i).invalyscan[·]) ((s.spanAt i).majorx[·])
      ((s.spanAt i).minorx[·]) := by
  unfold State.cvgBuild State.cvgSpan
  generalize s.spanAt i = sp
  simp only [if_true, Int.ofNat_lt]
  rfl

/-- "With `flip = 0` the right one" (R454). -/
theorem State.cvgBuild_minor_left (s : State) (i : Int) : s.cvgBuild i false =
    s.cvgSpan (s.spanAt i).lx.toNat (s.spanAt i).rx.toNat ((s.spanAt i).invalyscan[·]) ((s.spanAt i).minorx[·])
      ((s.spanAt i).majorx[·]) := by
  unfold State.cvgBuild State.cvgSpan
  generalize s.spanAt i = sp
  simp only [Bool.false_eq_true, if_false, Int.ofNat_lt]
  rfl

/-- What `CVG_BUILD` does to the buffer, and its frame, whichever edge is the left one. -/
theorem State.cvgSpan_spec (s : State) (lo hi : Nat) (inval : Fin 4 → Bool) (left right : Fin 4 → BitVec 13) :
    let t := s.cvgSpan lo hi inval left right
    let mask := fun (k : Fin 4) (p : Nat) => subMask k.val (inval k) (left k).toNat (right k).toNat p
    t = { s with gs.cvgbuf := t.gs.cvgbuf } ∧ (hi < lo → t = s) ∧
    (∀ p, lo ≤ p → p ≤ hi → p < 1024 → (t.cvgAt p).toNat = mask 0 p ||| mask 1 p ||| mask 2 p ||| mask 3 p) ∧
    (∀ p, p < lo ∨ hi < p → (∀ k, p ≠ (left k).toNat / 8 ∧ p ≠ (right k).toNat / 8) → t.cvgAt p = s.cvgAt p) := by
  unfold State.cvgSpan
  by_cases hneg : hi < lo
  · rw [if_pos hneg]
    exact ⟨rfl, fun _ => rfl, fun p hlo hhi => by omega, fun _ _ _ => rfl⟩
  rw [if_neg hneg]
  refine ⟨?_, fun h => absurd h hneg, fun p hlo hhi hp => s.cvgLine_cvgAt lo hi inval left right hlo hhi hp,
    fun p hout hk => ?_⟩
  · refine s.cvgLine_inv (P := fun t => t = { s with gs.cvgbuf := t.gs.cvgbuf }) lo hi inval left right
      (fun t q v _ ht => ?_) rfl
    rw [State.putCvg_frame, ht]
  · refine s.cvgLine_inv (P := fun t => t.cvgAt p = s.cvgAt p) lo hi inval left right (fun t q v hq ht => ?_) rfl
    have hne : p ≠ q := by
      rintro rfl
      rcases hq with hq | ⟨k, hq⟩
      · omega
      · exact hq.elim (hk k).1 (hk k).2
    rw [State.putCvg_cvgAt, if_neg (fun h => hne h.1), ht]

/-- Settles O55: in either orientation `CVG_BUILD` is `cvgSpan`, whose masks and frame `cvgSpan_spec` states. -/
theorem coverageOfASpan : Obligations.CoverageOfASpan := by
  unfold Obligations.CoverageOfASpan
  intro m i flip
  refine ⟨m.cvgBuild i.toNat flip, rfl, ?_⟩
  generalize (i.toNat : Int) = line
  cases flip with
  | true =>
    rw [State.cvgBuild_major_left]
    exact m.cvgSpan_spec ..
  | false =>
    rw [State.cvgBuild_minor_left]
    exact m.cvgSpan_spec ..

/-! ### The coverage lookup (R452, R460, R462) -/

/-- The mask bit of column `x` of sub-scanline `y` (R452). -/
def sampleBit (y x : Nat) : Nat := (if y < 2 then 7 else 3) - x

/-- The place of a sample in raster order. -/
def rasterIndex (e : Nat × BitVec 2 × BitVec 2) : Nat := 4 * e.2.2.toNat + e.2.1.toNat

/-- Every sample of the list lies on the checkerboard, at the bit R452 gives it. -/
theorem cvgSamples_sampled : ∀ e ∈ cvgSamples,
    e.1 = sampleBit e.2.2.toNat e.2.1.toNat ∧ e.2.1.toNat % 2 = e.2.2.toNat % 2 := by decide

/-- Every point of the checkerboard is in the list. -/
theorem mem_cvgSamples {y x : Nat} (hy : y < 4) (hx : x < 4) (hxy : x % 2 = y % 2) :
    (sampleBit y x, BitVec.ofNat 2 x, BitVec.ofNat 2 y) ∈ cvgSamples := by
  have hall : ∀ y x : Fin 4, x.val % 2 = y.val % 2 →
      (sampleBit y.val x.val, BitVec.ofNat 2 x.val, BitVec.ofNat 2 y.val) ∈ cvgSamples := by decide
  exact hall ⟨y, hy⟩ ⟨x, hx⟩ hxy

/-- Every bit of a mask is a sample. -/
theorem exists_cvgSample : ∀ k < 8, ∃ e ∈ cvgSamples, e.1 = k := by decide

theorem cvgSamples_raster : cvgSamples.Pairwise (fun e f => rasterIndex e < rasterIndex f) := by
  unfold cvgSamples rasterIndex
  decide

/-- What `find?` gives in a sorted list comes before everything else that satisfies the test. -/
theorem find?_le_of_pairwise {α : Type} {p : α → Bool} {f : α → Nat} {l : List α} {a b : α}
    (hl : l.Pairwise (fun x y => f x < f y)) (ha : l.find? p = some a) (hb : b ∈ l) (hp : p b = true) : f a ≤ f b := by
  obtain ⟨-, before, after, rfl, hbefore⟩ := List.find?_eq_some_iff_append.1 ha
  obtain ⟨-, hafter, -⟩ := List.pairwise_append.1 hl
  rcases List.mem_append.1 hb with hb | hb
  · have := hbefore b hb
    simp [hp] at this
  · rcases List.mem_cons.1 hb with rfl | hb
    · exact le_rfl
    · exact ((List.pairwise_cons.1 hafter).1 b hb).le

/-- The first covered sample of a mask in raster order. -/
theorem cvgSamples_find {mask : Byte} (hmask : mask ≠ 0) : ∃ e, cvgSamples.find? (fun e => mask.getLsbD e.1) = some e := by
  by_contra h
  refine hmask (BitVec.eq_of_getLsbD_eq fun k hk => ?_)
  obtain ⟨e, he, rfl⟩ := exists_cvgSample k hk
  have hnone := List.find?_eq_none.1 (Option.eq_none_iff_forall_ne_some.2 (not_exists.1 h)) e he
  simpa using hnone

theorem cvlut_offset_of_find {mask : Byte} {e : Nat × BitVec 2 × BitVec 2}
    (he : cvgSamples.find? (fun e => mask.getLsbD e.1) = some e) : (cvlut mask).xoff = e.2.1 ∧ (cvlut mask).yoff = e.2.2 := by
  unfold cvlut
  rw [he]
  exact ⟨rfl, rfl⟩

/-- A coverage count fits four bits. -/
theorem cvlut_cvg_toNat (mask : Byte) : (cvlut mask).cvg.toNat = (List.range 8).countP (fun k => mask.getLsbD k) := by
  have hle := List.countP_le_length (p := fun k => mask.getLsbD k) (l := List.range 8)
  rw [List.length_range] at hle
  have hcount : popcount8 mask = (List.range 8).countP (fun k => mask.getLsbD k) := List.countP_eq_length_filter.symm
  show (BitVec.ofNat 4 (popcount8 mask)).toNat = _
  rw [BitVec.toNat_ofNat, hcount]
  omega

/-- Settles O56: the offsets are those of the first set sample of the list, which is the checkerboard in raster order. -/
theorem coverageLookup : Obligations.CoverageLookup := by
  unfold Obligations.CoverageLookup
  intro m mask
  refine ⟨_, _, _, _, rfl, cvlut_cvg_toNat mask, rfl, fun h => h ▸ ⟨rfl, rfl⟩, fun hmask => ?_⟩
  obtain ⟨e, he⟩ := cvgSamples_find hmask
  obtain ⟨hx, hy⟩ := cvlut_offset_of_find he
  obtain ⟨hbit, hcheck⟩ := cvgSamples_sampled e (List.mem_of_find?_eq_some he)
  have hset := List.find?_some he
  rw [hx, hy]
  refine ⟨?_, fun y x hy4 hx4 hlt => ?_⟩
  · rw [hbit] at hset
    exact Bool.and_eq_true_iff.2 ⟨hset, decide_eq_true hcheck⟩
  · by_contra hsample
    obtain ⟨hcovered, hxy⟩ := Bool.and_eq_true_iff.1 (Bool.eq_true_of_not_eq_false hsample)
    have hle := find?_le_of_pairwise cvgSamples_raster he (mem_cvgSamples hy4 hx4 (of_decide_eq_true hxy)) hcovered
    unfold rasterIndex at hle
    simp only [BitVec.toNat_ofNat] at hle
    omega

/-! ### The generator (R470) -/

theorem nextSeed_toNat (v : BitVec 32) : (nextSeed v).toNat = (v.toNat * 0x343FD + 0x269EC3) % 2 ^ 32 := by
  unfold nextSeed
  rw [BitVec.toNat_add, BitVec.toNat_mul]
  simp

theorem nextSeed_eq_ofNat (v : BitVec 32) : nextSeed v = BitVec.ofNat 32 (v.toNat * 0x343FD + 0x269EC3) :=
  BitVec.eq_of_toNat_eq (by rw [nextSeed_toNat, BitVec.toNat_ofNat])

theorem seedOut_toNat (v : BitVec 32) : (seedOut v).toNat = v.toNat / 0x10000 % 0x8000 := by
  unfold seedOut
  rw [BitVec.extractLsb'_toNat, Nat.shiftRight_eq_div_pow]

theorem State.irand_eq (s : State) : s.irand =
    ({ s with gs.hid.iseed := nextSeed s.gs.hid.iseed }, seedOut (nextSeed s.gs.hid.iseed)) := rfl

/-- `IRAND` writes its seed and answers in the latch. -/
theorem exec_irand {s : State} {seed : BitVec 32} {v : BitVec 15} (h : s.irand = ({ s with gs.hid.iseed := seed }, v)) :
    exec .irand s = .next { s with gs.hid.iseed := seed, ret := .random v } :=
  congrArg (fun x : State × BitVec 15 => Host.Outcome.next (x.1.setRet (.random x.2))) h

/-! ### Colour dither (R476) -/

theorem ditherChannel_toNat (c : BitVec 8) (comp : Nat) : (ditherChannel c comp).toNat =
    if comp < c.toNat % 8 then min 255 (c.toNat / 8 * 8 + 8) else c.toNat := by
  have hdown : (c &&& 0xF8).toNat = c.toNat / 8 * 8 := by
    have hmask : (0xF8 : BitVec 8) = BitVec.allOnes 8 <<< 3 := by decide
    rw [hmask, ← BitVec.shiftLeft_ushiftRight, BitVec.toNat_shiftLeft, BitVec.toNat_ushiftRight, Nat.shiftRight_eq_div_pow,
      Nat.shiftLeft_eq]
    omega
  unfold ditherChannel
  by_cases hup : comp < c.toNat % 8
  · rw [if_pos hup, if_pos hup]
    by_cases htop : 247 < c.toNat
    · rw [if_pos htop]
      show 255 = _
      omega
    · rw [if_neg htop, BitVec.toNat_add, hdown]
      show (_ + 8) % 256 = _
      omega
  · rw [if_neg hup, if_neg hup]

/-- One dither value for all channels, or three bits of it for each (R476). -/
theorem State.rgbDither_eq (s : State) (r g b : BitVec 8) (dith : BitVec 15) :
    let one := Om.rgbDitherSel s.gs.om ≠ 2
    s.rgbDither r g b dith = ⟨ditherChannel r (if one then dith.toNat else dith.toNat % 8),
      ditherChannel g (if one then dith.toNat else dith.toNat / 8 % 8),
      ditherChannel b (if one then dith.toNat else dith.toNat / 64 % 8)⟩ := by
  unfold State.rgbDither
  simp only [bne_iff_ne]
  by_cases h : Om.rgbDitherSel s.gs.om ≠ 2
  · simp only [if_pos h]
  · simp only [if_neg h]

/-! ### The dither pattern and its modes (R471, R472, R474) -/

theorem magic_toNat (d : Fin 16) : magic[d].toNat = [0, 6, 1, 7, 4, 2, 5, 3, 3, 5, 2, 4, 7, 1, 6, 0].getD d.val 0 := by
  revert d
  decide

theorem bayer_toNat (d : Fin 16) : bayer[d].toNat = [0, 4, 1, 5, 4, 0, 5, 1, 3, 7, 2, 6, 7, 3, 6, 2].getD d.val 0 := by
  revert d
  decide

theorem alphaDither_toNat (sel : Nat) (pattern noise : BitVec 3) : (alphaDither sel pattern noise).toNat =
    if sel = 0 then pattern.toNat else if sel = 1 then 7 - pattern.toNat else if sel = 2 then noise.toNat else 0 := by
  unfold alphaDither
  split
  · rfl
  · exact BitVec.toNat_not
  · rfl
  · next h0 h1 h2 => rw [if_neg h0, if_neg h1, if_neg h2]; rfl

/-- The pattern value of a pixel for an arm of `DITHER_NOISE` (R472). -/
def ditherPattern (arm : Nat) (d : Fin 16) : BitVec 3 := if arm = 0 ∨ arm = 2 then magic[d] else bayer[d]

theorem ditherPattern_toNat (arm : Nat) (d : Fin 16) : (ditherPattern arm d).toNat =
    (if arm = 0 ∨ arm = 2 then [0, 6, 1, 7, 4, 2, 5, 3, 3, 5, 2, 4, 7, 1, 6, 0]
      else [0, 4, 1, 5, 4, 0, 5, 1, 3, 7, 2, 6, 7, 3, 6, 2]).getD d.val 0 := by
  unfold ditherPattern
  split
  · exact magic_toNat d
  · exact bayer_toNat d

/-- The arms of `DITHER_NOISE` as one expression: only the third calls the generator (R472). -/
theorem State.ditherArm_eq (s : State) (d : Fin 16) :
    let mode := s.gs.der.rgbAlphaDither.toNat
    let pattern := ditherPattern (mode / 4) d
    s.ditherArm d = (if mode / 4 = 2 then s.irand.1 else s,
      if mode / 4 < 2 then pattern.setWidth 15 else if mode / 4 = 2 then s.irand.2 else 7,
      alphaDither (mode % 4) pattern (s.gs.sca.noise.extractLsb' 6 3)) := by
  have harm : s.gs.der.rgbAlphaDither.toNat / 4 = 0 ∨ s.gs.der.rgbAlphaDither.toNat / 4 = 1 ∨
      s.gs.der.rgbAlphaDither.toNat / 4 = 2 ∨ s.gs.der.rgbAlphaDither.toNat / 4 = 3 := by omega
  unfold State.ditherArm
  simp only
  rcases harm with h | h | h | h <;> rw [h] <;> rfl

/-- The noise an answer of `IRAND` gives (R474). -/
def noiseOf (v : BitVec 15) : BitVec 9 := (v.setWidth 3 : BitVec 3) ++ 0x20#6

theorem noiseOf_toNat (v : BitVec 15) : (noiseOf v).toNat = v.toNat % 8 * 64 + 32 := by
  have happend : ∀ n : BitVec 3, (n ++ 0x20#6).toNat = n.toNat * 64 + 32 := by decide
  exact (happend _).trans (by rw [BitVec.toNat_setWidth])

theorem State.drawNoise_of_irand {s : State} {seed : BitVec 32} {v : BitVec 15}
    (h : s.irand = ({ s with gs.hid.iseed := seed }, v)) :
    s.drawNoise = { s with gs.hid.iseed := seed, gs.sca.noise := noiseOf v } := by
  unfold State.drawNoise
  rw [h]
  rfl

/-- The generator when `DITHER_NOISE` has drawn the noise that level 0 wants (R474). -/
def State.drawnSeed (s : State) : BitVec 32 :=
  if s.gs.der.ditherLevel = 0 then nextSeed s.gs.hid.iseed else s.gs.hid.iseed

/-- `gs.noise` then. -/
def State.drawnNoise (s : State) : BitVec 9 :=
  if s.gs.der.ditherLevel = 0 then noiseOf (seedOut (nextSeed s.gs.hid.iseed)) else s.gs.sca.noise

/-- The machine then. -/
def State.withNoise (s : State) : State := { s with gs.hid.iseed := s.drawnSeed, gs.sca.noise := s.drawnNoise }

theorem State.drawnNoise_toNat (s : State) : s.drawnNoise.toNat =
    if s.gs.der.ditherLevel = 0 then (nextSeed s.gs.hid.iseed).toNat / 0x10000 % 8 * 64 + 32 else s.gs.sca.noise.toNat := by
  unfold State.drawnNoise
  split
  · rw [noiseOf_toNat, seedOut_toNat]
    omega
  · rfl

theorem ditherIndex_val (x y : BitVec 12) (field : Bool) : (ditherIndex x (if field then y >>> 1 else y)).val =
    4 * ((if field then y.toNat / 2 else y.toNat) % 4) + x.toNat % 4 := by
  have hval : ∀ z : BitVec 12, (ditherIndex x z).val = z.toNat % 4 * 4 + x.toNat % 4 := fun _ => rfl
  rw [hval, Nat.mul_comm, apply_ite BitVec.toNat, BitVec.toNat_ushiftRight, Nat.shiftRight_eq_div_pow]

/-- At level 2 `DITHER_NOISE` does nothing (R472). -/
theorem State.ditherNoise_off (s : State) (h : s.gs.der.ditherLevel = 2) (x y : BitVec 12) (cd : BitVec 15) (ad : BitVec 3) :
    s.ditherNoise x y cd ad = (s, cd, ad) := if_pos h

/-- At another level it runs an arm after the draw (R472). -/
theorem State.ditherNoise_on (s : State) (h : s.gs.der.ditherLevel ≠ 2) (x y : BitVec 12) (cd : BitVec 15) (ad : BitVec 3) :
    s.ditherNoise x y cd ad = s.withNoise.ditherArm (ditherIndex x (if s.gs.clip.scfield then y >>> 1 else y)) := by
  unfold State.ditherNoise State.withNoise State.drawnSeed State.drawnNoise
  rw [if_neg h]
  by_cases h0 : s.gs.der.ditherLevel = 0
  · simp only [if_pos h0, State.drawNoise_of_irand s.irand_eq]
  · simp only [if_neg h0]

/-- The answer of an arm in numbers. -/
theorem State.ditherArm_spec (s : State) (d : Fin 16) : ∃ (c : BitVec 15) (a : BitVec 3),
    let mode := s.gs.der.rgbAlphaDither.toNat
    let pattern := (ditherPattern (mode / 4) d).toNat
    s.ditherArm d = ({ s with gs.hid.iseed := if mode / 4 = 2 then nextSeed s.gs.hid.iseed else s.gs.hid.iseed }, c, a) ∧
    c.toNat = (if mode / 4 < 2 then pattern
      else if mode / 4 = 2 then (nextSeed s.gs.hid.iseed).toNat / 0x10000 % 0x8000 else 7) ∧
    a.toNat = (if mode % 4 = 0 then pattern else if mode % 4 = 1 then 7 - pattern
      else if mode % 4 = 2 then s.gs.sca.noise.toNat / 64 else 0) := by
  refine ⟨_, _, (s.ditherArm_eq d).trans (congrArg (·, _) ?_), ?_, ?_⟩
  · split <;> rfl
  · rw [apply_ite BitVec.toNat, apply_ite BitVec.toNat, BitVec.toNat_setWidth]
    refine if_congr Iff.rfl ?_ (if_congr Iff.rfl (seedOut_toNat _) rfl)
    omega
  · have hnoise : (s.gs.sca.noise.extractLsb' 6 3).toNat = s.gs.sca.noise.toNat / 64 := by
      rw [BitVec.extractLsb'_toNat, Nat.shiftRight_eq_div_pow]
      omega
    rw [alphaDither_toNat, hnoise]

/-- Settles O57: at a level other than 2 `DITHER_NOISE` is an arm run after the draw, whose answer `ditherArm_spec` gives. -/
theorem ditherUnit : Obligations.DitherUnit := by
  unfold Obligations.DitherUnit
  refine ⟨fun m => ⟨_, _, exec_irand m.irand_eq, nextSeed_toNat _, seedOut_toNat _⟩, fun m x y cd ad => ?_,
    fun m r g b dith => ?_⟩
  · by_cases hlevel : m.gs.der.ditherLevel = 2
    · exact ⟨_, cd, ad, exec_ditherNoise (m.ditherNoise_off hlevel x y cd ad), rfl, fun _ => ⟨rfl, rfl, rfl, rfl⟩,
        fun h => absurd hlevel h⟩
    · obtain ⟨c, a, harm, hc, ha⟩ := m.withNoise.ditherArm_spec (ditherIndex x (if m.gs.clip.scfield then y >>> 1 else y))
      refine ⟨_, c, a, exec_ditherNoise ((m.ditherNoise_on hlevel x y cd ad).trans harm), rfl, fun h => absurd h hlevel,
        fun _ => ?_⟩
      simp only [← nextSeed_eq_ofNat]
      have hnoise := m.drawnNoise_toNat
      rw [ditherPattern_toNat, ditherIndex_val] at hc ha
      exact ⟨hnoise, rfl, hc, hnoise ▸ ha⟩
  · refine ⟨_, rfl, ?_⟩
    rw [State.rgbDither_eq]
    exact ⟨ditherChannel_toNat _ _, ditherChannel_toNat _ _, ditherChannel_toNat _ _⟩

end Sys2Proof.Machine

end

/-! ## The framebuffer family: reads, writes and fills of the colour image (`48_framebuffer_io.md`)

The index of a pixel is the sum of R491; the accesses of R87 at an index leave the value written and change nothing else
(`pairWr8_leaves`, `pairWr16_leaves`, `pairWr32_leaves`). What is left for each operation is the value it packs. -/

section

namespace Sys2Proof.Machine

/-! ### Addresses (R491) -/

theorem State.fbIndex8_toNat (s : State) (p : Word) :
    (s.fbIndex8 p).toNat = (s.gs.img.fbAddress.toNat + p.toNat) % 2 ^ 32 := by
  rw [State.fbIndex8, BitVec.toNat_add, BitVec.toNat_setWidth_of_le (by decide)]

theorem State.fbIndex16_toNat (s : State) (p : Word) :
    (s.fbIndex16 p).toNat = (s.gs.img.fbAddress.toNat / 2 + p.toNat) % 2 ^ 32 := by
  rw [State.fbIndex16, BitVec.toNat_add, BitVec.toNat_ushiftRight, BitVec.toNat_setWidth_of_le (by decide),
    Nat.shiftRight_eq_div_pow, Nat.pow_one]

theorem State.fbIndex32_toNat (s : State) (p : Word) :
    (s.fbIndex32 p).toNat = (s.gs.img.fbAddress.toNat / 4 + p.toNat) % 2 ^ 32 := by
  rw [State.fbIndex32, BitVec.toNat_add, BitVec.toNat_ushiftRight, BitVec.toNat_setWidth_of_le (by decide),
    Nat.shiftRight_eq_div_pow]

/-- A word is the sum whose remainder it holds. -/
theorem ofNat_of_toNat_eq_mod {i : Word} {n : Nat} (h : i.toNat = n % 2 ^ 32) : BitVec.ofNat 32 n = i :=
  BitVec.eq_of_toNat_eq ((BitVec.toNat_ofNat _ _).trans h.symm)

/-! ### What an access leaves (R87) -/

theorem State.pairWr8_leaves (s : State) {i : Word} {n : Nat} (hi : i.toNat = n) (v : Byte) (h : BitVec 2) :
    (s.pairWr8 i v h).ramByte (n % s.ramBytes) = v ∧
    (n % 2 = 1 → (s.pairWr8 i v h).hiddenAt (n / 2 % (s.ramBytes / 2)) = h) ∧
    SameRamOutside (fun x => x = n % s.ramBytes) (fun u => n % 2 = 1 ∧ u = n / 2 % (s.ramBytes / 2)) s (s.pairWr8 i v h) := by
  obtain ⟨-, hram, hhid⟩ := s.pairWr8_frame i v h
  subst hi
  exact ⟨(hram _).trans (if_pos rfl), fun hodd => (hhid _).trans (if_pos ⟨hodd, rfl⟩),
    fun a ha => (hram a).trans (if_neg ha), fun u hu => (hhid u).trans (if_neg hu)⟩

theorem State.pairWr16_leaves (s : State) {i : Word} {n : Nat} (hi : i.toNat = n) (v : BitVec 16) (h : BitVec 2) :
    (s.pairWr16 i v h).rd16 (BitVec.ofNat 32 n) = v ∧ (s.pairWr16 i v h).hiddenAt (n % (s.ramBytes / 2)) = h ∧
    SameRamOutside (fun x => x / 2 = n % (s.ramBytes / 2)) (fun u => u = n % (s.ramBytes / 2)) s (s.pairWr16 i v h) := by
  obtain ⟨-, hram, hread, hhid⟩ := s.pairWr16_frame i v h
  subst hi
  rw [BitVec.ofNat_toNat, BitVec.setWidth_eq]
  exact ⟨hread, (hhid _).trans (if_pos rfl), hram, fun u hu => (hhid u).trans (if_neg hu)⟩

theorem State.pairWr32_leaves (s : State) {i : Word} {n : Nat} (hi : i.toNat = n) (v : Word) (h0 h1 : BitVec 2) :
    (s.pairWr32 i v h0 h1).rd32 (BitVec.ofNat 32 n) = v ∧
    (s.pairWr32 i v h0 h1).hiddenAt (2 * (n % (s.ramBytes / 4))) = h0 ∧
    (s.pairWr32 i v h0 h1).hiddenAt (2 * (n % (s.ramBytes / 4)) + 1) = h1 ∧
    SameRamOutside (fun x => x / 4 = n % (s.ramBytes / 4)) (fun u => u / 2 = n % (s.ramBytes / 4)) s
      (s.pairWr32 i v h0 h1) := by
  obtain ⟨-, hram, hread, hhid⟩ := s.pairWr32_frame i v h0 h1
  subst hi
  rw [BitVec.ofNat_toNat, BitVec.setWidth_eq]
  refine ⟨hread, (hhid _).trans ((if_neg (Nat.ne_of_lt (Nat.lt_succ_self _))).trans (if_pos rfl)),
    (hhid _).trans (if_pos rfl), hram, fun u hu => (hhid u).trans ?_⟩
  have hword : u / 2 ≠ s.mask32 i := hu
  rw [if_neg (by omega), if_neg (by omega)]

/-- The hidden bits that repeat one bit of what is stored (R504, R508, R510). -/
theorem repeatedBit_toNat {n : Nat} (v : BitVec n) (k : Nat) :
    (if v.getLsbD k then 3 else 0 : BitVec 2).toNat = v.toNat / 2 ^ k % 2 * 3 := by
  rw [getLsbD_eq_decide]
  rcases Nat.mod_two_eq_zero_or_one (v.toNat / 2 ^ k) with h | h <;> rw [h] <;> rfl

theorem repeatedBit0_toNat {n : Nat} (v : BitVec n) :
    (if v.getLsbD 0 then 3 else 0 : BitVec 2).toNat = v.toNat % 2 * 3 := by
  rw [repeatedBit_toNat, Nat.pow_zero, Nat.div_one]

/-! ### Reads (R492 to R499) -/

section Reads

variable (s : State) (p : Word)

/-- A read writes the one memory colour and returns the coverage; nothing else changes (R499). -/
theorem State.latchPixel_returned (x : FbPixel) (pre : Bool) :
    (s.latchPixel x pre).setRet (.memcvg x.memcvg) =
      if pre then { s with gs.col.preMemory := x.color, ret := .memcvg x.memcvg }
      else { s with gs.col.memory := x.color, ret := .memcvg x.memcvg } := by
  cases pre <;> rfl

/-- The alpha of a stored coverage (R496, R498). -/
theorem coverageAlpha_toNat (v : BitVec 3) : (v ++ 0#5 : BitVec 8).toNat = v.toNat * 32 := by
  rw [toNat_append_eq_add, BitVec.toNat_ofNat]
  omega

theorem State.fbPixel16_alpha_eq : (s.fbPixel16 p).color.a = (s.fbPixel16 p).memcvg ++ 0#5 := by
  unfold State.fbPixel16
  simp only
  split <;> rfl

theorem State.fbPixel16_rgba (h : s.gs.img.fbFormat = 0) : let w := (s.rd16 (s.fbIndex16 p)).toNat
    (s.fbPixel16 p).color.r.toNat = w / 2048 * 8 ∧ (s.fbPixel16 p).color.g.toNat = w / 64 % 32 * 8 ∧
    (s.fbPixel16 p).color.b.toNat = w / 2 % 32 * 8 := by
  have hw := (s.rd16 (s.fbIndex16 p)).isLt
  simp only [State.fbPixel16, if_pos h, State.pairRd16, toNat_append_eq_add, BitVec.extractLsb'_toNat,
    Nat.shiftRight_eq_div_pow, BitVec.toNat_ofNat]
  omega

theorem State.fbPixel16_intensity (h : s.gs.img.fbFormat ≠ 0) : let w := (s.rd16 (s.fbIndex16 p)).toNat
    (s.fbPixel16 p).color.r.toNat = w / 256 ∧ (s.fbPixel16 p).color.g.toNat = w / 256 ∧
    (s.fbPixel16 p).color.b.toNat = w / 256 := by
  simp only [State.fbPixel16, if_neg h, State.pairRd16, highByte_toNat, and_self]

theorem State.fbPixel16_memcvg : (s.fbPixel16 p).memcvg.toNat =
    if Om.imageReadEn s.gs.om = true then
      (s.rd16 (s.fbIndex16 p)).toNat % 2 * 4 + (s.hidRd (s.fbIndex16 p)).toNat
    else 7 := by
  have hcvg : (s.fbPixel16 p).memcvg = if Om.imageReadEn s.gs.om = true then
      (s.rd16 (s.fbIndex16 p)).extractLsb' 0 1 ++ s.hidRd (s.fbIndex16 p) else 7 :=
    (apply_ite FbPixel.memcvg _ _ _).trans (ite_self _)
  rw [hcvg, apply_ite BitVec.toNat, toNat_append_eq_add, BitVec.extractLsb'_toNat, Nat.mul_comm]
  rfl

theorem State.fbPixel32_memcvg : (s.fbPixel32 p).memcvg.toNat =
    if Om.imageReadEn s.gs.om = true then (s.rd32 (s.fbIndex32 p)).toNat / 32 % 8 else 7 := by
  unfold State.fbPixel32
  rw [apply_ite BitVec.toNat, BitVec.extractLsb'_toNat, Nat.shiftRight_eq_div_pow]
  rfl

theorem State.fbPixel32_rgb : let x := (s.rd32 (s.fbIndex32 p)).toNat
    (s.fbPixel32 p).color.r.toNat = x / 0x1000000 ∧ (s.fbPixel32 p).color.g.toNat = x / 0x10000 % 256 ∧
    (s.fbPixel32 p).color.b.toNat = x / 0x100 % 256 := by
  have hx := (s.rd32 (s.fbIndex32 p)).isLt
  simp only [State.fbPixel32, BitVec.extractLsb'_toNat, Nat.shiftRight_eq_div_pow, and_true]
  omega

end Reads

/-- Settles O58: each read latches the pixel of its size, whose fields the lemmas above give. -/
theorem framebufferReads : Obligations.FramebufferReads := by
  unfold Obligations.FramebufferReads
  intro m p pre
  refine ⟨(m.fbPixel8 p).color, (m.fbPixel16 p).color, (m.fbPixel32 p).color, (m.fbPixel16 p).memcvg,
    (m.fbPixel32 p).memcvg, congrArg _ (m.latchPixel_returned fbPixel4 pre),
    congrArg _ (m.latchPixel_returned (m.fbPixel8 p) pre), congrArg _ (m.latchPixel_returned (m.fbPixel16 p) pre),
    congrArg _ (m.latchPixel_returned (m.fbPixel32 p) pre), ?_⟩
  simp only [ofNat_of_toNat_eq_mod (m.fbIndex8_toNat p), ofNat_of_toNat_eq_mod (m.fbIndex16_toNat p),
    ofNat_of_toNat_eq_mod (m.fbIndex32_toNat p)]
  obtain ⟨hr, hg, hb⟩ := m.fbPixel32_rgb p
  exact ⟨rfl, m.fbPixel16_rgba p, m.fbPixel16_intensity p, m.fbPixel16_memcvg p,
    (congrArg _ (m.fbPixel16_alpha_eq p)).trans (coverageAlpha_toNat _), hr, hg, hb, m.fbPixel32_memcvg p,
    coverageAlpha_toNat _⟩

/-! ### The coverage to store (R500) -/

section FinalCoverage

variable {s : State} (blendEn : Bool) (cvg : BitVec 4) (memcvg : BitVec 3)

/-- The sum of `CVG_DEST_CLAMP` as a number: five bits hold it and its sign. -/
theorem State.finalCvg_clamp (h : (Om.cvgDest s.gs.om).toNat = 0) :
    let t : Int := if blendEn then cvg.toNat + memcvg.toNat else cvg.toNat - 1
    ((s.finalCvg blendEn cvg memcvg).toNat : Int) = if t / 8 % 2 = 1 then 7 else t % 8 := by
  have htop : ∀ t : BitVec 5, ((if t.getLsbD 3 then 7 else t.setWidth 3 : BitVec 3).toNat : Int) =
      if (t.toNat : Int) / 8 % 2 = 1 then 7 else (t.toNat : Int) % 8 := fun t => by
    have hall : BitVec.toNat (7 : BitVec 3) = 7 := rfl
    rw [getLsbD_eq_decide, apply_ite BitVec.toNat, BitVec.toNat_setWidth, hall]
    split <;> split <;> simp only [decide_eq_true_eq] at * <;> omega
  unfold State.finalCvg
  rw [h]
  refine (htop _).trans ?_
  have hcvg := cvg.isLt
  have hmem := memcvg.isLt
  cases blendEn with
  | true =>
    have hsum : (cvg.setWidth 5 + memcvg.setWidth 5).toNat = cvg.toNat + memcvg.toNat := by bv_omega
    simp only [if_true, hsum, Nat.cast_add]
  | false =>
    have hdiff : (cvg.setWidth 5 - 1).toNat = (cvg.toNat + 31) % 32 := by bv_omega
    simp only [Bool.false_eq_true, if_false, hdiff]
    refine if_congr ?_ rfl ?_ <;> omega

theorem State.finalCvg_wrap (h : (Om.cvgDest s.gs.om).toNat = 1) :
    (s.finalCvg blendEn cvg memcvg).toNat = (cvg.toNat + memcvg.toNat) % 8 := by
  unfold State.finalCvg
  rw [h]
  refine (BitVec.toNat_add _ _).trans ?_
  rw [BitVec.toNat_setWidth]
  omega

theorem State.finalCvg_zap (h : (Om.cvgDest s.gs.om).toNat = 2) : s.finalCvg blendEn cvg memcvg = 7 := by
  unfold State.finalCvg
  rw [h]
  rfl

theorem State.finalCvg_save (h : (Om.cvgDest s.gs.om).toNat = 3) : s.finalCvg blendEn cvg memcvg = memcvg := by
  unfold State.finalCvg
  rw [h]
  rfl

end FinalCoverage

/-! ### Writes and fills (R502 to R510) -/

/-- The half word of `FB_WRITE_16` in its two formats, and the hidden entry (R506). -/
theorem State.fbWrite16_eq (s : State) (o : FbOperands) : ∃ (v : BitVec 16) (h : BitVec 2),
    let fc := (s.finalCvg o.blendEn o.cvg o.memcvg).toNat
    s.fbWrite16 o = s.pairWr16 (s.fbIndex16 o.curpixel) v h ∧
    v.toNat = (if s.gs.img.fbFormat = 0 then o.r.toNat / 8 * 2048 + o.g.toNat / 8 * 64 + o.b.toNat / 8 * 2 + fc / 4
      else o.r.toNat * 256 + fc * 32) ∧
    h.toNat = (if s.gs.img.fbFormat = 0 then fc % 4 else 0) := by
  by_cases hfmt : s.gs.img.fbFormat = 0
  · refine ⟨_, _, if_pos hfmt, ?_, ?_⟩ <;> rw [if_pos hfmt]
    · simp only [toNat_append_eq_add, BitVec.extractLsb'_toNat, Nat.shiftRight_eq_div_pow]
      have := (s.finalCvg o.blendEn o.cvg o.memcvg).isLt
      have := o.r.isLt
      have := o.g.isLt
      have := o.b.isLt
      omega
    · exact BitVec.extractLsb'_toNat _ _ _
  · refine ⟨_, _, if_neg hfmt, ?_, ?_⟩ <;> rw [if_neg hfmt]
    · simp only [toNat_append_eq_add, BitVec.toNat_ofNat]
      omega
    · rfl

/-- The word of `FB_WRITE_32` (R508). -/
theorem packed32_toNat (r g b : BitVec 8) (fc : BitVec 3) : (r ++ (g ++ (b ++ (fc ++ 0#5))) : Word).toNat =
    r.toNat * 0x1000000 + g.toNat * 0x10000 + b.toNat * 0x100 + fc.toNat * 32 := by
  simp only [toNat_append_eq_add, BitVec.toNat_ofNat]
  omega

/-- Settles O59: the coverage by the arms of `FINAL_CVG`, the stores by what the accesses leave at the pixel's index. -/
theorem framebufferWrites : Obligations.FramebufferWrites := by
  unfold Obligations.FramebufferWrites
  refine ⟨fun m blendEn cvg memcvg => ⟨m.finalCvg blendEn cvg memcvg, rfl, State.finalCvg_clamp blendEn cvg memcvg,
    State.finalCvg_wrap blendEn cvg memcvg, State.finalCvg_zap blendEn cvg memcvg,
    State.finalCvg_save blendEn cvg memcvg⟩, fun m o => ?_⟩
  obtain ⟨v, h, h16, hv, hh⟩ := m.fbWrite16_eq o
  refine ⟨m.fbWrite4 o, m.fbWrite8 o, m.pairWr16 (m.fbIndex16 o.curpixel) v h, m.fbWrite32 o,
    m.finalCvg o.blendEn o.cvg o.memcvg, rfl, rfl, rfl, rfl, ?_, congrArg Host.Outcome.next h16, rfl, rfl, rfl, ?_⟩
  · obtain ⟨he, -⟩ := m.pairWr8_frame (m.fbIndex8 o.curpixel) o.r (if o.r.getLsbD 0 then 3 else 0)
    exact he
  · obtain ⟨hbyte, hodd, hout8⟩ :=
      m.pairWr8_leaves (m.fbIndex8_toNat o.curpixel) o.r (if o.r.getLsbD 0 then 3 else 0)
    obtain ⟨hread16, hhid16, hout16⟩ := m.pairWr16_leaves (m.fbIndex16_toNat o.curpixel) v h
    obtain ⟨hread32, heven32, hodd32, hout32⟩ := m.pairWr32_leaves (m.fbIndex32_toNat o.curpixel)
      (o.r ++ (o.g ++ (o.b ++ (m.finalCvg o.blendEn o.cvg o.memcvg ++ 0#5)))) (if o.g.getLsbD 0 then 3 else 0) 0
    refine ⟨⟨(m.wr8_ramByte _ _ _).trans (if_pos rfl), fun a ha => m.wr8_ramByte_other _ _ ha, fun _ _ => rfl⟩,
      ⟨hbyte, fun ho => (congrArg BitVec.toNat (hodd ho)).trans (repeatedBit0_toNat _), hout8⟩,
      ⟨(congrArg BitVec.toNat hread16).trans hv, (congrArg BitVec.toNat hhid16).trans hh, hout16⟩,
      (congrArg BitVec.toNat hread32).trans (packed32_toNat _ _ _ _),
      (congrArg BitVec.toNat heven32).trans (repeatedBit0_toNat _), hodd32, hout32⟩

/-- Settles O60: a fill is an access at the pixel's index with the packed fill colour. -/
theorem framebufferFills : Obligations.FramebufferFills := by
  unfold Obligations.FramebufferFills
  intro m p
  have hred : (m.gs.misc.fillColor.extractLsb' 24 8).toNat = m.gs.misc.fillColor.toNat / 0x1000000 := by
    rw [BitVec.extractLsb'_toNat, Nat.shiftRight_eq_div_pow]
    omega
  refine ⟨m.fbFill8 p, m.fbFill16 p, m.fbFill32 p, rfl, ?_, rfl, rfl, rfl, rfl, ?_⟩
  · exact (m.pairWr8_frame _ _ _).1
  · obtain ⟨hbyte, hodd8, hout8⟩ := m.pairWr8_leaves (m.fbIndex8_toNat p) (m.gs.misc.fillColor.extractLsb' 24 8)
      (if (m.gs.misc.fillColor.extractLsb' 24 8).getLsbD 0 then 3 else 0)
    obtain ⟨hread16, hhid16, hout16⟩ := m.pairWr16_leaves (m.fbIndex16_toNat p) (fill16 m.gs.misc.fillColor)
      (if (fill16 m.gs.misc.fillColor).getLsbD 0 then 3 else 0)
    obtain ⟨hread32, heven32, hodd32, hout32⟩ := m.pairWr32_leaves (m.fbIndex32_toNat p) m.gs.misc.fillColor
      (if m.gs.misc.fillColor.getLsbD 16 then 3 else 0) (if m.gs.misc.fillColor.getLsbD 0 then 3 else 0)
    refine ⟨⟨(congrArg BitVec.toNat hbyte).trans hred, fun ho => ?_, hout8⟩,
      ⟨(congrArg BitVec.toNat hread16).trans (fill16_toNat _), ?_, hout16⟩,
      congrArg BitVec.toNat hread32, (congrArg BitVec.toNat heven32).trans (repeatedBit_toNat _ 16),
      (congrArg BitVec.toNat hodd32).trans (repeatedBit0_toNat _), hout32⟩
    · exact (congrArg BitVec.toNat (hodd8 ho)).trans ((repeatedBit0_toNat _).trans (congrArg (· % 2 * 3) hred))
    · exact (congrArg BitVec.toNat hhid16).trans ((repeatedBit0_toNat _).trans (congrArg (· % 2 * 3) (fill16_toNat _)))

end Sys2Proof.Machine

end

/-! ## The command family: the state-setting commands and the classification of modes (`49_config_commands.md`)

A command's meaning is the setters it uses, so most statements are its definition read as a record; what remains is the values
in numbers. `ControlStep` says once which operation writes which control register: an operation that is no command keeps them
all (`exec_rendering`, `drawTri_step`). The classification is read off the code tables one table at a time. -/

section

namespace Sys2Proof.Machine

variable {s t : State} {i : Instr}

/-! ### Values the commands write -/

/-- Bits 63:56 of a mode record are dropped (R532, R534). -/
theorem modeBits_eq_ofNat (v : BitVec 64) : modeBits v = BitVec.ofNat 64 (v.toNat % 2 ^ 56) := by
  have hmask : BitVec.toNat (0x00FFFFFFFFFFFFFF : BitVec 64) = 2 ^ 56 - 1 := rfl
  refine BitVec.eq_of_toNat_eq ?_
  rw [modeBits, BitVec.toNat_and, hmask, Nat.and_two_pow_sub_one_eq_mod, BitVec.toNat_ofNat]
  omega

/-- The width register holds the record's width plus one: eleven bits hold it (R552). -/
theorem fbWidth_toNat (width : BitVec 10) : (width.setWidth 11 + 1 : BitVec 11).toNat = width.toNat + 1 := by
  bv_omega

/-- "The top bit of `z` is dropped" (R559). -/
theorem primDepth_toNat (z : BitVec 16) : ((z &&& 0x7FFF) ++ 0#16 : BitVec 32).toNat = z.toNat % 0x8000 * 0x10000 := by
  have hmask : BitVec.toNat (0x7FFF : BitVec 16) = 2 ^ 15 - 1 := rfl
  rw [toNat_append_eq_add, BitVec.toNat_and, hmask, Nat.and_two_pow_sub_one_eq_mod, BitVec.toNat_ofNat]
  omega

/-- Settles O15: the mode commands mask the record to 56 bits. -/
theorem modeCommandsWriteRegisterAndStale : Obligations.ModeCommandsWriteRegisterAndStale := by
  unfold Obligations.ModeCommandsWriteRegisterAndStale
  intro s v
  rw [← modeBits_eq_ofNat]
  exact ⟨rfl, rfl⟩

/-- Settles O16: the image, scissor and depth commands are their setters, with the two values above. -/
theorem imageScissorAndDepthCommands : Obligations.ImageScissorAndDepthCommands := by
  unfold Obligations.ImageScissorAndDepthCommands
  exact ⟨fun _ _ _ width _ => ⟨_, fbWidth_toNat width, rfl⟩, fun _ _ => rfl, fun _ _ _ _ _ _ _ => rfl,
    fun _ z _ => ⟨_, primDepth_toNat z, rfl⟩⟩

/-- Settles O17: each of these commands is the setter of its group of registers. -/
theorem colorAndScalarCommands : Obligations.ColorAndScalarCommands := by
  unfold Obligations.ColorAndScalarCommands
  exact ⟨fun _ _ _ _ _ _ _ _ => ⟨rfl, rfl, rfl, rfl, rfl⟩, fun _ _ _ _ _ _ _ _ _ _ _ _ _ => ⟨rfl, rfl, rfl⟩⟩

/-! ### The derived fields of a tile (R546) -/

theorem clampDiff_toNat (lo hi : BitVec 12) :
    ((clampDiff lo hi).toNat : Int) = ((hi.toNat / 4 : Int) - lo.toNat / 4) % 1024 := by
  unfold clampDiff
  have hlo := lo.isLt
  have hhi := hi.isLt
  simp only [BitVec.toNat_sub, BitVec.extractLsb'_toNat, Nat.shiftRight_eq_div_pow]
  omega

theorem maskClamped_toNat (m : BitVec 4) : (maskClamped m).toNat = min m.toNat 10 := by
  revert m
  decide

theorem clampEnable_iff (clamp : Bool) (mask : BitVec 4) : (clamp || mask == 0) = true ↔ clamp = true ∨ mask.toNat = 0 := by
  rw [Bool.or_eq_true, beq_iff_eq, ← BitVec.toNat_inj]
  exact Iff.rfl

theorem Tile.recompute_derived (x : Tile) : TileDerived x.recompute where
  clampdiffs := clampDiff_toNat x.sl x.sh
  clampdifft := clampDiff_toNat x.tl x.th
  clampens := clampEnable_iff x.cs x.maskS
  clampent := clampEnable_iff x.ct x.maskT
  masksclamped := maskClamped_toNat x.maskS
  masktclamped := maskClamped_toNat x.maskT
  notlutswitch := toNat_append_eq_add x.format x.size
  tlutswitch := tlutswitch_toNat x.recompute_idem

/-- `LOAD_TILE` writes its tile and TMEM, and nothing else (R544). -/
theorem State.putTile_setTmem_frame (s : State) (n : BitVec 3) (x : Tile) (y : List Host.Cell) :
    (s.putTile n x).setTmem y = { s with gs.tiles := s.gs.tiles.set n.toNat x, tmem := ((s.putTile n x).setTmem y).tmem } := rfl

/-- Each byte of a transferred TMEM (R544). -/
theorem State.setTmem_tmemByte (s : State) (f : BitVec 12 → Byte) (a : BitVec 12) :
    (s.setTmem (tmemOf f)).tmemByte a.toNat = f a := by
  rw [State.tmemByte, State.setTmem_tmem, tmemOf_get]

/-- Settles O18: each tile command writes back a recomputed tile. -/
theorem tileCommands : Obligations.TileCommands := by
  unfold Obligations.TileCommands
  exact ⟨fun s c => ⟨((s.tile c.tile).describe c).recompute, rfl, Tile.recompute_derived _, rfl⟩,
    fun s n sl tl sh th => ⟨((s.tile n).bounds sl tl sh th).recompute, rfl, Tile.recompute_derived _, rfl⟩,
    fun s n => ⟨(s.tile n).recompute, rfl, Tile.recompute_derived _, rfl⟩,
    fun s n sl tl sh th => ⟨((s.tile n).bounds sl tl sh th).recompute,
      (s.putTile n ((s.tile n).bounds sl tl sh th).recompute).setTmem
        (tmemOf (Config.loadTileTmem ⟨s.gs, s.ram, s.ramExtra, s.tmem, n, sl, tl, sh, th⟩)),
      rfl, s.putTile_setTmem_frame n _ _, Tile.recompute_derived _, rfl, State.setTmem_tmemByte _ _⟩⟩

/-! ### Which operation writes which control register (R530 to R559) -/

/-- What an operation may do to the control registers: each group is as it was, or the operation is its command. -/
structure ControlStep (i : Instr) (s t : State) : Prop where
  om : t.gs.om = s.gs.om ∨ ∃ om, i = .setOtherModes om := by exact .inl rfl
  cc : t.gs.cc = s.gs.cc ∨ ∃ cc, i = .setCombineMode cc := by exact .inl rfl
  clip : t.gs.clip = s.gs.clip ∨ ∃ xh yh xl yl f o, i = .setScissor xh yh xl yl f o := by exact .inl rfl
  img : t.gs.img = s.gs.img ∨ (∃ f z w a, i = .setColorImage f z w a) ∨ ∃ a, i = .setZImage a := by exact .inl rfl
  tiles : t.gs.tiles = s.gs.tiles ∨ (∃ c, i = .setTile c) ∨ (∃ n sl tl sh th, i = .setTileSize n sl tl sh th) ∨
    (∃ n sl tl sh th, i = .loadTile n sl tl sh th) ∨ ∃ n, i = .recomputeTile n := by exact .inl rfl
  fillColor : t.gs.misc.fillColor = s.gs.misc.fillColor ∨ ∃ c, i = .setFillColor c := by exact .inl rfl
  primDepth : (t.gs.misc.primitiveZ = s.gs.misc.primitiveZ ∧ t.gs.misc.primitiveDeltaZ = s.gs.misc.primitiveDeltaZ) ∨
    ∃ z dz, i = .setPrimDepth z dz := by exact .inl ⟨rfl, rfl⟩
  prim : (t.gs.col.prim = s.gs.col.prim ∧ t.gs.sca.primLodFrac = s.gs.sca.primLodFrac ∧
    t.gs.sca.minLevel = s.gs.sca.minLevel) ∨ ∃ m l r g b a, i = .setPrimColor m l r g b a := by exact .inl ⟨rfl, rfl, rfl⟩
  env : t.gs.col.env = s.gs.col.env ∨ ∃ r g b a, i = .setEnvColor r g b a := by exact .inl rfl
  fog : t.gs.col.fog = s.gs.col.fog ∨ ∃ r g b a, i = .setFogColor r g b a := by exact .inl rfl
  blend : t.gs.col.blend = s.gs.col.blend ∨ ∃ r g b a, i = .setBlendColor r g b a := by exact .inl rfl
  key : (t.gs.col.keyWidth = s.gs.col.keyWidth ∧ t.gs.col.keyCenter = s.gs.col.keyCenter ∧
    t.gs.col.keyScale = s.gs.col.keyScale) ∨ (∃ w c k, i = .setKeyR w c k) ∨
    ∃ wg wb cg kg cb kb, i = .setKeyGb wg wb cg kg cb kb := by exact .inl ⟨rfl, rfl, rfl⟩
  convert : (t.gs.sca.k0 = s.gs.sca.k0 ∧ t.gs.sca.k1 = s.gs.sca.k1 ∧ t.gs.sca.k2 = s.gs.sca.k2 ∧
    t.gs.sca.k3 = s.gs.sca.k3 ∧ t.gs.sca.k4 = s.gs.sca.k4 ∧ t.gs.sca.k5 = s.gs.sca.k5) ∨
    ∃ k0 k1 k2 k3 k4 k5, i = .setConvert k0 k1 k2 k3 k4 k5 := by exact .inl ⟨rfl, rfl, rfl, rfl, rfl, rfl⟩
  workers : t.gs.misc.stride = s.gs.misc.stride ∧ t.gs.misc.workerOffset = s.gs.misc.workerOffset := by exact ⟨rfl, rfl⟩

/-- An operation that keeps every control register. -/
theorem ControlStep.of_control (h : SameControl s t) : ControlStep i s t where
  om := .inl h.om
  cc := .inl h.cc
  clip := .inl h.clip
  img := .inl h.img
  tiles := .inl h.tiles
  fillColor := .inl h.fillColor
  primDepth := .inl ⟨h.primitiveZ, h.primitiveDeltaZ⟩
  prim := .inl ⟨h.prim, h.primLodFrac, h.minLevel⟩
  env := .inl h.env
  fog := .inl h.fog
  blend := .inl h.blend
  key := .inl ⟨h.keyWidth, h.keyCenter, h.keyScale⟩
  convert := .inl ⟨h.k0, h.k1, h.k2, h.k3, h.k4, h.k5⟩
  workers := ⟨h.stride, h.workerOffset⟩

/-- A crash keeps the control registers (R572). -/
theorem raiseCrash_control (s : State) : SameControl s s.raiseCrash := { SameControl.refl s with }

/-- An operation of a rendering writes no control register. -/
theorem RenderingStep.control (h : RenderingStep i s t) : SameControl s t := by
  cases h with
  | crash hcfg ht => exact ht ▸ raiseCrash_control s
  | stage hcfg hs => exact { hs.control with }

/-- One case per command, which names the group it writes; the other operations keep all of them. -/
theorem exec_control (h : exec i s = .next t) : ControlStep i s t := by
  cases i with
  | drawTri c => exact .of_control (drawTri_step (ofExcept_next h)).control
  | fillRect xl yl xh yh => exact .of_control (drawTri_step (ofExcept_next h)).control
  | texRect xl yl tile xh yh a b dsdx dtdy => exact .of_control (drawTri_step (ofExcept_next h)).control
  | edgewalk c => cases h; exact .of_control { (State.edgewalk_frame c).control with }
  | deduceDerivatives => cases h; exact {}
  | setOtherModes om => cases h; exact { om := .inr ⟨om, rfl⟩ }
  | setCombineMode cc => cases h; exact { cc := .inr ⟨cc, rfl⟩ }
  | setScissor xh yh xl yl f o => cases h; exact { clip := .inr ⟨xh, yh, xl, yl, f, o, rfl⟩ }
  | setColorImage f z w a => cases h; exact { img := .inr (.inl ⟨f, z, w, a, rfl⟩) }
  | setZImage a => cases h; exact { img := .inr (.inr ⟨a, rfl⟩) }
  | setTile c => cases h; exact { tiles := .inr (.inl ⟨c, rfl⟩) }
  | setTileSize n sl tl sh th => cases h; exact { tiles := .inr (.inr (.inl ⟨n, sl, tl, sh, th, rfl⟩)) }
  | loadTile n sl tl sh th => cases h; exact { tiles := .inr (.inr (.inr (.inl ⟨n, sl, tl, sh, th, rfl⟩))) }
  | recomputeTile n => cases h; exact { tiles := .inr (.inr (.inr (.inr ⟨n, rfl⟩))) }
  | setFillColor c => cases h; exact { fillColor := .inr ⟨c, rfl⟩ }
  | setPrimDepth z dz => cases h; exact { primDepth := .inr ⟨z, dz, rfl⟩ }
  | setPrimColor m l r g b a => cases h; exact { prim := .inr ⟨m, l, r, g, b, a, rfl⟩ }
  | setEnvColor r g b a => cases h; exact { env := .inr ⟨r, g, b, a, rfl⟩ }
  | setFogColor r g b a => cases h; exact { fog := .inr ⟨r, g, b, a, rfl⟩ }
  | setBlendColor r g b a => cases h; exact { blend := .inr ⟨r, g, b, a, rfl⟩ }
  | setKeyR w c k => cases h; exact { key := .inr (.inl ⟨w, c, k, rfl⟩) }
  | setKeyGb wg wb cg kg cb kb => cases h; exact { key := .inr (.inr ⟨wg, wb, cg, kg, cb, kb, rfl⟩) }
  | setConvert k0 k1 k2 k3 k4 k5 => cases h; exact { convert := .inr ⟨k0, k1, k2, k3, k4, k5, rfl⟩ }
  | _ => exact .of_control (exec_rendering rfl h).control

/-- Settles O12: a group that changed is not as it was, so the operation is its command. -/
theorem controlRegistersChangeOnlyByTheirCommands : Obligations.ControlRegistersChangeOnlyByTheirCommands := by
  unfold Obligations.ControlRegistersChangeOnlyByTheirCommands
  intro i s t h
  have k := exec_control h
  exact ⟨k.om.resolve_left, k.cc.resolve_left, k.clip.resolve_left, k.img.resolve_left, k.tiles.resolve_left,
    k.fillColor.resolve_left, fun hne => k.primDepth.resolve_left (by tauto), fun hne => k.prim.resolve_left (by tauto),
    k.env.resolve_left, k.fog.resolve_left, k.blend.resolve_left, fun hne => k.key.resolve_left (by tauto),
    fun hne => k.convert.resolve_left (by tauto), k.workers⟩

/-! ### What the selectors reference, table by table (R354, R392, R560) -/

/-- The source is the colour or its alpha view. -/
def Source.isOf (src color alpha : Source) : Bool := decide (src = color ∨ src = alpha)

/-- The four references that R560 asks for, as a selector's code decides them. -/
structure RefersBy (src : Source) (texel0 texel1 lod noise : Bool) : Prop where
  texel0 : src.isOf .texel0 .texel0Alpha = texel0
  texel1 : src.isOf .texel1 .texel1Alpha = texel1
  lod : src.isOf .lodFrac .lodFrac = lod
  noise : src.isOf .noise .noise = noise

theorem subARgbSource_refers (c : BitVec 4) : RefersBy (subARgbSource c) (c == 1) (c == 2) false (c == 7) := by
  constructor <;> revert c <;> decide

theorem subBRgbSource_refers (c : BitVec 4) : RefersBy (subBRgbSource c) (c == 1) (c == 2) false false := by
  constructor <;> revert c <;> decide

theorem mulRgbSource_refers (c : BitVec 5) :
    RefersBy (mulRgbSource c) (c == 1 || c == 8) (c == 2 || c == 9) (c == 13) false := by
  constructor <;> revert c <;> decide

theorem addRgbSource_refers (c : BitVec 3) : RefersBy (addRgbSource c) (c == 1) (c == 2) false false := by
  constructor <;> revert c <;> decide

theorem alphaSource_refers (c : BitVec 3) : RefersBy (alphaSource c) (c == 1) (c == 2) false false := by
  constructor <;> revert c <;> decide

theorem mulASource_refers (c : BitVec 3) : RefersBy (mulASource c) (c == 1) (c == 2) (c == 0) false := by
  constructor <;> revert c <;> decide

theorem references_eq (x : CombinerSources) (color alpha : Source) : references x color alpha =
    (x.aRgb.isOf color alpha || x.bRgb.isOf color alpha || x.cRgb.isOf color alpha || x.dRgb.isOf color alpha ||
      x.aA.isOf color alpha || x.bA.isOf color alpha || x.cA.isOf color alpha || x.dA.isOf color alpha) := by
  simp only [references, Source.isOf, List.any_cons, List.any_nil, Bool.or_false, Bool.or_assoc, Bool.decide_or]

/-- What the eight selectors of a cycle reference, from their codes. -/
theorem references_of_codes (ra rb : BitVec 4) (rc : BitVec 5) (rd aa ab ac ad : BitVec 3) :
    let x : CombinerSources := ⟨subARgbSource ra, subBRgbSource rb, mulRgbSource rc, addRgbSource rd,
      alphaSource aa, alphaSource ab, mulASource ac, alphaSource ad⟩
    references x .texel0 .texel0Alpha =
      (ra == 1 || rb == 1 || rc == 1 || rc == 8 || rd == 1 || aa == 1 || ab == 1 || ac == 1 || ad == 1) ∧
    references x .texel1 .texel1Alpha =
      (ra == 2 || rb == 2 || rc == 2 || rc == 9 || rd == 2 || aa == 2 || ab == 2 || ac == 2 || ad == 2) ∧
    references x .lodFrac .lodFrac = (rc == 13 || ac == 0) ∧ references x .noise .noise = (ra == 7) := by
  have hra := subARgbSource_refers ra
  have hrb := subBRgbSource_refers rb
  have hrc := mulRgbSource_refers rc
  have hrd := addRgbSource_refers rd
  have haa := alphaSource_refers aa
  have hab := alphaSource_refers ab
  have hac := mulASource_refers ac
  have had := alphaSource_refers ad
  simp only [references_eq]
  refine ⟨?_, ?_, ?_, ?_⟩
  · rw [hra.texel0, hrb.texel0, hrc.texel0, hrd.texel0, haa.texel0, hab.texel0, hac.texel0, had.texel0]
    simp only [Bool.or_assoc]
  · rw [hra.texel1, hrb.texel1, hrc.texel1, hrd.texel1, haa.texel1, hab.texel1, hac.texel1, had.texel1]
    simp only [Bool.or_assoc]
  · rw [hra.lod, hrb.lod, hrc.lod, hrd.lod, haa.lod, hab.lod, hac.lod, had.lod]
    simp only [Bool.false_or, Bool.or_false]
  · rw [hra.noise, hrb.noise, hrc.noise, hrd.noise, haa.noise, hab.noise, hac.noise, had.noise]
    simp only [Bool.or_false]

theorem combinerSources0_references (cc : BitVec 64) : let x := combinerSources0 cc
    references x .texel0 .texel0Alpha = texel0Used cc false ∧ references x .texel1 .texel1Alpha = texel1Used cc false ∧
    references x .lodFrac .lodFrac = lodfracUsed cc false ∧ references x .noise .noise = noiseUsed cc false :=
  references_of_codes _ _ _ _ _ _ _ _

theorem combinerSources1_references (cc : BitVec 64) : let x := combinerSources1 cc
    references x .texel0 .texel0Alpha = texel0Used cc true ∧ references x .texel1 .texel1Alpha = texel1Used cc true ∧
    references x .lodFrac .lodFrac = lodfracUsed cc true ∧ references x .noise .noise = noiseUsed cc true :=
  references_of_codes _ _ _ _ _ _ _ _

theorem blend2bSource_invPixelAlpha_iff (c : BitVec 2) : blend2bSource c = .invPixelAlpha ↔ c = 0 := by
  revert c
  decide

theorem blend2bSource_memoryAlpha_iff (c : BitVec 2) : blend2bSource c = .memoryAlpha ↔ c = 1 := by
  revert c
  decide

theorem blend1bSource_pixel_iff (c : BitVec 2) : blend1bSource c = .pixel ↔ c = 0 := by
  revert c
  decide

/-! ### The classification flags (R560) -/

section Classification

variable (om cc : BitVec 64)

theorem deduce_cycle1Mode : (deduce om cc).cycle1Mode.toNat =
    if texel1Used cc true then 2 else if texel0Used cc true || lodfracUsed cc true then 1 else 0 := by
  simp only [deduce, apply_ite BitVec.toNat]
  rfl

theorem deduce_cycle2Mode : (deduce om cc).cycle2Mode.toNat =
    if texel1Used cc true then 3 else if texel1Used cc false || texel0Used cc true then 2
    else if texel0Used cc false || lodfracUsed cc false || lodfracUsed cc true then 1 else 0 := by
  simp only [deduce, apply_ite BitVec.toNat]
  rfl

theorem deduce_dolod : (deduce om cc).dolod = true ↔ Om.texLodEn om = true ∨
    (Om.cycleType om = 1 ∧ (lodfracUsed cc false = true ∨ lodfracUsed cc true = true)) ∨
    (Om.cycleType om = 0 ∧ lodfracUsed cc true = true) := by
  simp only [deduce, Bool.or_eq_true, Bool.and_eq_true, beq_iff_eq]

/-- The dither levels in their order: new noise for each pixel, a dither, none. -/
theorem deduce_ditherLevel : (deduce om cc).ditherLevel =
    if (Om.cycleType om = 0 ∧ noiseUsed cc true = true) ∨
      (Om.cycleType om = 1 ∧ (noiseUsed cc false = true ∨ noiseUsed cc true = true)) ∨ Om.alphaDitherSel om = 2 then 0
    else if (deduce om cc).rgbAlphaDither ≠ 15 then 1 else 2 := by
  simp only [deduce, Bool.or_eq_true, Bool.and_eq_true, beq_iff_eq, bne_iff_ne, or_assoc]

/-- A level of three values, by what each says of its two conditions. -/
theorem level_iff {p q : Prop} [Decidable p] [Decidable q] {level : BitVec 2}
    (h : level = if p then 0 else if q then 1 else 2) : (level = 0 ↔ p) ∧ (level ≠ 0 → (level = 1 ↔ q) ∧ level ≠ 3) := by
  by_cases hp : p
  · simp [h, hp]
  · by_cases hq : q <;> simp [h, hp, hq]

theorem deduce_partialreject1cycle : (deduce om cc).partialreject1cycle = true ↔
    blend2bSource (blendCodes om false).m2b = .invPixelAlpha ∧ blend1bSource (blendCodes om false).m1b = .pixel := by
  simp only [blend2bSource_invPixelAlpha_iff, blend1bSource_pixel_iff, deduce, blendCodes, Bool.and_eq_true, beq_iff_eq]

theorem deduce_partialreject2cycle : (deduce om cc).partialreject2cycle = true ↔
    blend2bSource (blendCodes om true).m2b = .invPixelAlpha ∧ blend1bSource (blendCodes om true).m1b = .pixel := by
  simp only [blend2bSource_invPixelAlpha_iff, blend1bSource_pixel_iff, deduce, blendCodes, Bool.and_eq_true, beq_iff_eq]

theorem deduce_realShiftersNeeded : (deduce om cc).realShiftersNeeded = true ↔
    (Om.cycleType om = 0 ∧ blend2bSource (blendCodes om false).m2b = .memoryAlpha) ∨
    (Om.cycleType om = 1 ∧ blend2bSource (blendCodes om true).m2b = .memoryAlpha) := by
  simp only [blend2bSource_memoryAlpha_iff, deduce, blendCodes, Bool.or_eq_true, Bool.and_eq_true, beq_iff_eq, and_comm]

theorem deduce_interpixelShiftersNeeded : (deduce om cc).interpixelShiftersNeeded = true ↔
    Om.cycleType om = 1 ∧ blend2bSource (blendCodes om false).m2b = .memoryAlpha := by
  simp only [blend2bSource_memoryAlpha_iff, deduce, blendCodes, Bool.and_eq_true, beq_iff_eq, and_comm]

end Classification

/-- Settles O19: the sources a selector names are those its code decides, so each flag is the one `deduce` computes. -/
theorem deduceDerivativesClassifiesModes : Obligations.DeduceDerivativesClassifiesModes := by
  unfold Obligations.DeduceDerivativesClassifiesModes
  intro s
  obtain ⟨h0texel0, h0texel1, h0lod, h0noise⟩ := combinerSources0_references s.gs.cc
  obtain ⟨h1texel0, h1texel1, h1lod, h1noise⟩ := combinerSources1_references s.gs.cc
  simp only [h0texel0, h0texel1, h0lod, h0noise, h1texel0, h1texel1, h1lod, h1noise]
  obtain ⟨hzero, hlevel⟩ := level_iff (deduce_ditherLevel s.gs.om s.gs.cc)
  exact ⟨deduce s.gs.om s.gs.cc, rfl, deduce_cycle1Mode _ _, deduce_cycle2Mode _ _, rfl, toNat_append_eq_add _ _,
    deduce_dolod _ _, hzero, hlevel, deduce_partialreject1cycle _ _, deduce_partialreject2cycle _ _,
    deduce_realShiftersNeeded _ _, deduce_interpixelShiftersNeeded _ _⟩

end Sys2Proof.Machine

end

/-! ## The crash and reset family: the pipeline crash and the machine after reset (`60_exceptions.md`, `70_reset_and_hazards.md`)

A draw's crash flag is in its `DrawStep`, a renderer's in its `RenderingStep`; no other operation touches the flag. In a
configuration of R570 each renderer answers `raiseCrash`, and a draw answers it after its walk. -/

section

namespace Sys2Proof.Machine

variable {s t : State} {i : Instr}

/-! ### The crash flag (R570, R574) -/

theorem RenderingStep.pipelineCrashed (h : RenderingStep i s t) :
    t.gs.pipelineCrashed = (s.gs.pipelineCrashed || crashes i s) := by
  cases h with
  | crash hcfg ht => rw [hcfg, Bool.or_true, ht, State.raiseCrash_pipelineCrashed]
  | stage hcfg hs => rw [hcfg, Bool.or_false, ← hs.crashed, State.setRet_pipelineCrashed]

/-- One case per kind of operation: a draw, the walk, the register commands, and the operations of a rendering. -/
theorem exec_pipelineCrashed (h : exec i s = .next t) :
    t.gs.pipelineCrashed = (s.gs.pipelineCrashed || crashes i s) := by
  cases i with
  | drawTri c => exact (drawTri_step (ofExcept_next h)).crashed
  | fillRect xl yl xh yh => exact (drawTri_step (ofExcept_next h)).crashed
  | texRect xl yl tile xh yh a b dsdx dtdy => exact (drawTri_step (ofExcept_next h)).crashed
  | edgewalk c =>
    cases h
    have hwalk : (s.edgewalk c).gs.pipelineCrashed = s.gs.pipelineCrashed :=
      (congrArg (fun m : State => m.gs.pipelineCrashed) (State.edgewalk_frame c).frame :)
    exact hwalk.trans (Bool.or_false _).symm
  | setKeyGb | setKeyR | setConvert | setScissor | setPrimDepth | setOtherModes | setCombineMode | setTileSize | setTile
  | loadTile | setFillColor | setFogColor | setBlendColor | setPrimColor | setEnvColor | setZImage | setColorImage
  | deduceDerivatives | recomputeTile => cases h; exact (Bool.or_false _).symm
  | _ => exact (exec_rendering rfl h).pipelineCrashed

/-- Settles O9: the flag over each operation. -/
theorem crashFlagIsRaisedExactlyByItsCauses : Obligations.CrashFlagIsRaisedExactlyByItsCauses := by
  unfold Obligations.CrashFlagIsRaisedExactlyByItsCauses
  exact fun i s t h => exec_pipelineCrashed h

/-! ### What a crash leaves (R572) -/

theorem renderCopy_of_crash (start stop : BitVec 12) (tilenum : BitVec 3) (flip : Bool) (h : crashConfig 2 s = true) :
    s.renderCopy start stop tilenum flip = .ok s.raiseCrash := by
  have hsize : s.gs.img.fbSize = 3 := by simpa [crashConfig] using h
  rw [State.renderCopy, if_pos hsize]

/-- A configuration of R570 is one of fill or copy mode, whose renderer checks it first. -/
theorem renderSpans_of_crash (start stop : BitVec 12) (tilenum : BitVec 3) (flip : Bool)
    (h : crashConfig (Om.cycleType s.gs.om).toNat s = true) :
    s.renderSpans start stop tilenum flip = .ok s.raiseCrash := by
  have hcycle : (Om.cycleType s.gs.om).toNat = 2 ∨ (Om.cycleType s.gs.om).toNat = 3 := by
    simp only [crashConfig, Bool.or_eq_true, Bool.and_eq_true, beq_iff_eq] at h
    exact h.elim (fun hfill => .inr hfill.1) (fun hcopy => .inl hcopy.1)
  unfold State.renderSpans
  rcases hcycle with hcopy | hfill
  · rw [hcopy] at h ⊢
    exact renderCopy_of_crash start stop tilenum flip h
  · rw [hfill] at h ⊢
    exact congrArg _ (renderFill_of_crash start stop flip h)

theorem crashConfig_congr (h : SameControl s t) (n : Nat) : crashConfig n t = crashConfig n s := by
  unfold crashConfig
  rw [h.img, h.om]

/-- What an abandoned operation leaves (R572). -/
structure Abandoned (s t : State) : Prop where
  crashed : t.gs.pipelineCrashed = true
  seq : t.gs.seq = Seq.reset
  ram : SameRam s t
  tmem : SameTmem s t
  control : SameControl s t

theorem raiseCrash_abandoned (s : State) : Abandoned s s.raiseCrash where
  crashed := rfl
  seq := rfl
  ram := ⟨fun _ => rfl, fun _ => rfl⟩
  tmem := fun _ => rfl
  control := raiseCrash_control s

/-- A draw in such a configuration walks, writes nothing to memory, and is abandoned. -/
theorem drawTri_abandoned (c : TriCmd) (h : crashConfig (Om.cycleType s.gs.om).toNat s = true) :
    ∃ t, s.drawTri c = .ok t ∧ Abandoned s t := by
  have hwalk : WalkFrame s.drawBegin (s.drawBegin.edgewalk c) := State.edgewalk_frame c
  have hcontrol : SameControl s ((s.drawBegin.edgewalk c).setPhase .render) :=
    { (drawBegin_keeps s).1.trans hwalk.control with }
  have hcrash := crashConfig_congr hcontrol (Om.cycleType s.gs.om).toNat
  rw [h, ← hcontrol.om] at hcrash
  have hmem : s.drawBegin.edgewalk c = { s with gs := (s.drawBegin.edgewalk c).gs } := by
    rw [hwalk.frame, State.drawBegin_eq]
  refine ⟨((s.drawBegin.edgewalk c).setPhase .render).raiseCrash.setPhase .idle, ?_, {
    crashed := rfl
    seq := rfl
    ram := ?_
    tmem := ?_
    control := { hcontrol with } }⟩
  · unfold State.drawTri
    exact andThen_ok.2 ⟨_, renderSpans_of_crash _ _ _ _ hcrash, rfl⟩
  · rw [hmem]
    exact ⟨fun _ => rfl, fun _ => rfl⟩
  · rw [hmem]
    exact fun _ => rfl

/-- The operations that can crash are the draws and three renderers (R570). -/
theorem exec_abandoned (h : crashes i s = true) : ∃ t, exec i s = .next t ∧ Abandoned s t := by
  have hdraw : ∀ c, crashConfig (Om.cycleType s.gs.om).toNat s = true →
      ∃ t, ofExcept (s.drawTri c) = .next t ∧ Abandoned s t := fun c hcfg => by
    obtain ⟨t, ht, hab⟩ := drawTri_abandoned c hcfg
    exact ⟨t, congrArg ofExcept ht, hab⟩
  cases i with
  | drawTri c => exact hdraw c h
  | fillRect xl yl xh yh => exact hdraw _ h
  | texRect xl yl tile xh yh a b dsdx dtdy => exact hdraw _ h
  | renderSpans start stop tilenum flip =>
    exact ⟨_, congrArg ofExcept (renderSpans_of_crash start stop tilenum flip h), raiseCrash_abandoned s⟩
  | renderCopy start stop tilenum flip =>
    exact ⟨_, congrArg ofExcept (renderCopy_of_crash start stop tilenum flip h), raiseCrash_abandoned s⟩
  | renderFill start stop flip =>
    exact ⟨_, congrArg Host.Outcome.next (renderFill_of_crash start stop flip h), raiseCrash_abandoned s⟩
  | _ => exact nomatch h

/-- Settles O10: each crashing operation is abandoned. -/
theorem crashAbandonsCommand : Obligations.CrashAbandonsCommand := by
  unfold Obligations.CrashAbandonsCommand
  intro i s h
  obtain ⟨t, hexec, hab⟩ := exec_abandoned h
  exact ⟨t, hexec, hab.crashed, hab.seq, hab.ram, hab.tmem, hab.control⟩

/-! ### Reset (R78, R602) -/

/-- Every tile at reset is the tile of zeros with its derived fields. -/
theorem State.reset_tile (n : BitVec 3) : State.reset.tile n = Tile.reset := by
  have htiles : State.reset.gs.tiles = Vector.replicate 8 Tile.reset := rfl
  unfold State.tile
  rw [htiles, Vector.getElem_replicate]

theorem State.reset_spanAt (j : Int) : State.reset.spanAt j = Span.reset := ite_self _

theorem State.reset_cvgAt (p : Nat) : State.reset.cvgAt p = 0 := ite_self _

/-- Settles O6: the registers by definition; the tiles, the span buffer and the coverage buffer entry by entry. -/
theorem resetRegisterValues : Obligations.ResetRegisterValues := by
  unfold Obligations.ResetRegisterValues
  exact ⟨rfl, rfl, rfl, rfl, rfl, rfl, rfl, rfl, rfl, rfl, rfl, rfl, rfl, State.reset_tile, State.reset_spanAt,
    State.reset_cvgAt⟩

/-- The derived fields of a tile at reset are those R546 gives for zeros, and the classification flags are stale. -/
theorem DerivedSound.reset : DerivedSound State.reset where
  tiles := fun n => by
    rw [State.reset_tile]
    rfl
  flags := .inl rfl

theorem RegistersSound.reset : RegistersSound State.reset := by
  constructor <;> decide

/-- Settles O7: the stores, the derived state and the registers at reset. -/
theorem resetSatisfiesInvariant : Obligations.ResetSatisfiesInvariant := by
  unfold Obligations.ResetSatisfiesInvariant
  exact ⟨.reset, .reset, .reset⟩

end Sys2Proof.Machine

end
